-- ==== Sys2Proof/Word.lean ====
section
/-! DEFINITION. Word.lean: the widths of the machine (spec 10_state.md R20, R24; 00_scope.md R8, R9). -/

namespace Sys2Proof

/-- An unsigned 8-bit value: a general register, a timer, a memory cell (R20, R28, R29, R50). -/
abbrev Byte := BitVec 8

/-- An unsigned 16-bit value: PC, I, a stack entry, an instruction word (R23, R24, R26, R70). -/
abbrev Word := BitVec 16

/-- A general register's number, 0..15: it comes from a 4-bit field, so it is never out of range (R20). -/
abbrev Reg := Fin 16

/-- The flag register VF, register 15 (R21). -/
abbrev vF : Reg := 15

/-- The register V0, implicit operand of BNNN (R161). -/
abbrev v0 : Reg := 0

/-- `zext_16` of an 8-bit value (R9). -/
abbrev zextByte (b : Byte) : Word := b.setWidth 16

/-- `zext_16` of a 12-bit address field (R9, R72). -/
abbrev zextAddr (a : BitVec 12) : Word := a.setWidth 16

end Sys2Proof
end

