-- ==== Sys2Proof/Config.lean ====
section
/-! DEFINITION. Config.lean: the implementation parameters of spec 00_scope.md R6: the fixed constants, the
parameters (a structure, which State holds: 10_state.md R33 counts the configuration as control state, "fixed at
construction and not writable by any instruction"), and the two draws as opaque free values. -/

namespace Sys2Proof

/-- MEM_SIZE (R6, R50). -/
abbrev memSize : Nat := 4096
/-- FONT_BASE (R6). -/
abbrev fontBase : Nat := 0x50
/-- FONT_GLYPH_BYTES (R6). -/
abbrev fontGlyphBytes : Nat := 5
/-- The size of FONT: 16 glyphs of 5 bytes (R56). -/
abbrev fontSize : Nat := 80
/-- PROG_BASE: the reset PC and the ROM's load address (R6). -/
abbrev progBase : Nat := 0x200
/-- ROM_MAX (R6). -/
abbrev romMax : Nat := 3584
/-- STACK_DEPTH (R6, R26). -/
abbrev stackDepth : Nat := 16
/-- TIMER_HZ, timing only: no rule of the model depends on it (R6, R270). -/
abbrev timerHz : Nat := 60

/-- BNNN_MODE (R6, R161; decision D3). -/
inductive BnnnMode
  /-- I <- V0 + NNN, the default. -/
  | index
  /-- PC <- V0 + NNN. -/
  | jump
deriving DecidableEq, Repr

/-- SHIFT_FLAG_ORDER (R6, R130; decision D5). -/
inductive ShiftFlagOrder
  /-- The result first, the flag last, the default. -/
  | flagLast
  /-- The flag first, then the result of VX read again. -/
  | flagFirst
deriving DecidableEq, Repr

/-- The parameters of R6, one field each. -/
structure Config where
  /-- BNNN_MODE -/
  bnnnMode : BnnnMode
  /-- STRICT_DECODE -/
  strictDecode : Bool
  /-- SHIFT_FLAG_ORDER -/
  shiftFlagOrder : ShiftFlagOrder
  /-- DIAG_ENABLED: gates logging only (R226) -/
  diagEnabled : Bool
  /-- ROM_INTEGRITY_CHECK (R262) -/
  romIntegrityCheck : Bool
  /-- DISPLAY_W -/
  displayW : Nat
  /-- DISPLAY_H -/
  displayH : Nat
  /-- IPF: timing only, no rule reads it (R101) -/
  ipf : Nat
  /-- FONT: 80 bytes (R57, R7) -/
  font : List Byte
  /-- MEM_INIT as plain data: the cells whose initial byte is not 0; a cell absent here starts at 0 (R56; D17).
  Every function from 0..0xFFF to bytes is such a list. -/
  memInit : List Host.Cell
deriving DecidableEq, Repr

/-- FONT's default, the conventional CHIP-8 hexadecimal font of R57.
PRESUMED: the spec marks the bytes "from general knowledge, not in source" (G1; log 5). Unsafe where a claim rests
on the bytes; a statement over every `Config.font` does not. -/
def defaultFont : List Byte :=
  [0xF0, 0x90, 0x90, 0x90, 0xF0,  0x20, 0x60, 0x20, 0x20, 0x70,
   0xF0, 0x10, 0xF0, 0x80, 0xF0,  0xF0, 0x10, 0xF0, 0x10, 0xF0,
   0x90, 0x90, 0xF0, 0x10, 0x10,  0xF0, 0x80, 0xF0, 0x10, 0xF0] ++
  [0xF0, 0x80, 0xF0, 0x90, 0xF0,  0xF0, 0x10, 0x20, 0x40, 0x40,
   0xF0, 0x90, 0xF0, 0x90, 0xF0,  0xF0, 0x90, 0xF0, 0x10, 0xF0,
   0xF0, 0x90, 0xF0, 0x90, 0x90,  0xE0, 0x90, 0xE0, 0x90, 0xE0] ++
  [0xF0, 0x80, 0x80, 0x80, 0xF0,  0xE0, 0x90, 0x90, 0x90, 0xE0,
   0xF0, 0x80, 0xF0, 0x80, 0xF0,  0xF0, 0x80, 0xF0, 0x80, 0x80]

/-- The configuration of `State.reset`: every default of R6 (log 4), IPF 256 of the source's example "255-256",
MEM_INIT 0 everywhere (DESIGN CHOICE, log 6). Unsafe where a claim rests on it; statements range over every Config. -/
def Config.default : Config where
  bnnnMode := .index
  strictDecode := false
  shiftFlagOrder := .flagLast
  diagEnabled := true
  romIntegrityCheck := true
  displayW := 64
  displayH := 32
  ipf := 256
  font := defaultFont
  memInit := []

/-- RAND (R6, R143; D28): the 8-bit value of the n-th draw. A free value: nothing constrains it (log 7). Safe. -/
opaque Config.freeRand : Nat → Byte

/-- OOB_READ_VALUE (R6, R52; D9): the byte the n-th draw gives an out-of-range data read. A free value: nothing
constrains it (log 8). Safe. -/
opaque Config.freeOobRead : Nat → Byte

end Sys2Proof
end

