-- ==== Sys2Proof/Syntax.lean ====
section
/-! DEFINITION. Syntax.lean: the 34 instructions of spec 30_encoding.md R80, one constructor for each row of
spec/opcode_table.json, named by the row's hexadecimal pattern. Operand fields as in R71 and R72: X and Y are register
numbers, N a 4-bit count, NN an 8-bit and NNN a 12-bit immediate. A field the row ignores (Y of 8XY6 and 8XYE, R77) is no
operand. UNKNOWN words (R76) are no row of the table: the decoder rejects them by name. -/

namespace Sys2Proof

inductive Instr
  /-- clear the framebuffer (R180) -/
  | op00E0
  /-- return (R110) -/
  | op00EE
  /-- jump (R111) -/
  | op1NNN (nnn : BitVec 12)
  /-- call (R112) -/
  | op2NNN (nnn : BitVec 12)
  /-- skip if VX = NN (R113) -/
  | op3XNN (x : Reg) (nn : Byte)
  /-- skip if VX != NN (R114) -/
  | op4XNN (x : Reg) (nn : Byte)
  /-- skip if VX = VY (R115) -/
  | op5XY0 (x y : Reg)
  /-- skip if VX != VY (R116) -/
  | op9XY0 (x y : Reg)
  /-- load immediate (R132) -/
  | op6XNN (x : Reg) (nn : Byte)
  /-- add immediate, no flag (R133) -/
  | op7XNN (x : Reg) (nn : Byte)
  /-- copy register (R134) -/
  | op8XY0 (x y : Reg)
  /-- bitwise OR (R135) -/
  | op8XY1 (x y : Reg)
  /-- bitwise AND (R136) -/
  | op8XY2 (x y : Reg)
  /-- bitwise XOR (R137) -/
  | op8XY3 (x y : Reg)
  /-- add with carry (R138) -/
  | op8XY4 (x y : Reg)
  /-- subtract VY from VX (R139) -/
  | op8XY5 (x y : Reg)
  /-- shift VX right by one; Y ignored (R140, R77) -/
  | op8XY6 (x : Reg)
  /-- subtract VX from VY (R141) -/
  | op8XY7 (x y : Reg)
  /-- shift VX left by one; Y ignored (R142, R77) -/
  | op8XYE (x : Reg)
  /-- load index (R160) -/
  | opANNN (nnn : BitVec 12)
  /-- indexed by V0, two modes (R161) -/
  | opBNNN (nnn : BitVec 12)
  /-- random AND mask (R143) -/
  | opCXNN (x : Reg) (nn : Byte)
  /-- draw sprite (R181) -/
  | opDXYN (x y : Reg) (n : BitVec 4)
  /-- skip if key VX is pressed (R200) -/
  | opEX9E (x : Reg)
  /-- skip if key VX is not pressed (R201) -/
  | opEXA1 (x : Reg)
  /-- read delay timer (R202) -/
  | opFX07 (x : Reg)
  /-- wait for a key (R205) -/
  | opFX0A (x : Reg)
  /-- set delay timer (R203) -/
  | opFX15 (x : Reg)
  /-- set sound timer (R204) -/
  | opFX18 (x : Reg)
  /-- add VX to I (R164) -/
  | opFX1E (x : Reg)
  /-- point I at a font glyph (R165) -/
  | opFX29 (x : Reg)
  /-- store binary-coded decimal (R166) -/
  | opFX33 (x : Reg)
  /-- store V0..VX (R167) -/
  | opFX55 (x : Reg)
  /-- load V0..VX (R168) -/
  | opFX65 (x : Reg)
deriving DecidableEq, Repr

end Sys2Proof
end

