-- ==== Sys2Proof/Decode.lean ====
section
/-! DEFINITION. Decode.lean: from words to instructions (spec 30_encoding.md R70 to R79), the encoder, the opcode map
of R80 as data, and the host's view of the decoder. -/

namespace Sys2Proof

/-- Nibble 3, the dispatch key w[15:12] (R71). -/
def opNibble (w : Word) : Nat := (w.extractLsb' 12 4).toNat

/-- A 4-bit register field as a register number (R72: "X and Y select V[X] and V[Y] directly"). -/
def regOfNibble (b : BitVec 4) : Reg := ⟨b.toNat, b.isLt⟩

/-- X = w[11:8] (R71). -/
def fieldX (w : Word) : Reg := regOfNibble (w.extractLsb' 8 4)

/-- Y = w[7:4] (R71). -/
def fieldY (w : Word) : Reg := regOfNibble (w.extractLsb' 4 4)

/-- N = w[3:0] (R71). -/
def fieldN (w : Word) : BitVec 4 := w.extractLsb' 0 4

/-- NN = w[7:0] (R71). -/
def fieldNN (w : Word) : Byte := w.extractLsb' 0 8

/-- NNN = w[11:0] (R71). -/
def fieldNNN (w : Word) : BitVec 12 := w.extractLsb' 0 12

/-- Why the decoder gives no instruction. -/
inductive DecodeError
  /-- UNKNOWN: the word is no row of the opcode map (R74, R76). -/
  | unknownOpcode (w : Word)
  /-- Fewer than two bytes: no whole word to decode (R70). -/
  | tooShort (nbytes : Nat)
deriving DecidableEq, Repr

/-- The decoder's answer: an instruction, or a rejection by name. -/
inductive Decoded
  | instr (i : Instr)
  | reject (e : DecodeError)
deriving DecidableEq, Repr

/-- Family 0x0 (R74; under STRICT_DECODE the whole word is matched, R75). -/
def decode0 (strict : Bool) (w : Word) : Decoded :=
  if strict && decide ((w.extractLsb' 8 4).toNat ≠ 0) then .reject (.unknownOpcode w)
  else match (fieldNN w).toNat with
    | 0xE0 => .instr .op00E0
    | 0xEE => .instr .op00EE
    | _ => .reject (.unknownOpcode w)

/-- Family 0x8, resolved by nibble 0 (R74). -/
def decode8 (w : Word) : Decoded :=
  match (fieldN w).toNat with
  | 0x0 => .instr (.op8XY0 (fieldX w) (fieldY w))
  | 0x1 => .instr (.op8XY1 (fieldX w) (fieldY w))
  | 0x2 => .instr (.op8XY2 (fieldX w) (fieldY w))
  | 0x3 => .instr (.op8XY3 (fieldX w) (fieldY w))
  | 0x4 => .instr (.op8XY4 (fieldX w) (fieldY w))
  | 0x5 => .instr (.op8XY5 (fieldX w) (fieldY w))
  | 0x6 => .instr (.op8XY6 (fieldX w))
  | 0x7 => .instr (.op8XY7 (fieldX w) (fieldY w))
  | 0xE => .instr (.op8XYE (fieldX w))
  | _ => .reject (.unknownOpcode w)

/-- Family 0xE, resolved by the low byte (R74). -/
def decodeE (w : Word) : Decoded :=
  match (fieldNN w).toNat with
  | 0x9E => .instr (.opEX9E (fieldX w))
  | 0xA1 => .instr (.opEXA1 (fieldX w))
  | _ => .reject (.unknownOpcode w)

/-- Family 0xF, resolved by the low byte (R74). -/
def decodeF (w : Word) : Decoded :=
  match (fieldNN w).toNat with
  | 0x07 => .instr (.opFX07 (fieldX w))
  | 0x0A => .instr (.opFX0A (fieldX w))
  | 0x15 => .instr (.opFX15 (fieldX w))
  | 0x18 => .instr (.opFX18 (fieldX w))
  | 0x1E => .instr (.opFX1E (fieldX w))
  | 0x29 => .instr (.opFX29 (fieldX w))
  | 0x33 => .instr (.opFX33 (fieldX w))
  | 0x55 => .instr (.opFX55 (fieldX w))
  | 0x65 => .instr (.opFX65 (fieldX w))
  | _ => .reject (.unknownOpcode w)

/-- Families 0x5 and 0x9: nibble 0 is ignored, but must be 0 under STRICT_DECODE (R74, R75). -/
def decodeIfN0 (strict : Bool) (w : Word) (i : Instr) : Decoded :=
  if strict && decide ((fieldN w).toNat ≠ 0) then .reject (.unknownOpcode w) else .instr i

/-- The decode tree of R74 (`strict` = false) and R75 (`strict` = true), total on all 65536 words. -/
def decode (strict : Bool) (w : Word) : Decoded :=
  match opNibble w with
  | 0x0 => decode0 strict w
  | 0x1 => .instr (.op1NNN (fieldNNN w))
  | 0x2 => .instr (.op2NNN (fieldNNN w))
  | 0x3 => .instr (.op3XNN (fieldX w) (fieldNN w))
  | 0x4 => .instr (.op4XNN (fieldX w) (fieldNN w))
  | 0x5 => decodeIfN0 strict w (.op5XY0 (fieldX w) (fieldY w))
  | 0x6 => .instr (.op6XNN (fieldX w) (fieldNN w))
  | 0x7 => .instr (.op7XNN (fieldX w) (fieldNN w))
  | 0x8 => decode8 w
  | 0x9 => decodeIfN0 strict w (.op9XY0 (fieldX w) (fieldY w))
  | 0xA => .instr (.opANNN (fieldNNN w))
  | 0xB => .instr (.opBNNN (fieldNNN w))
  | 0xC => .instr (.opCXNN (fieldX w) (fieldNN w))
  | 0xD => .instr (.opDXYN (fieldX w) (fieldY w) (fieldN w))
  | 0xE => decodeE w
  | 0xF => decodeF w
  | _ => .reject (.unknownOpcode w)

/-- The word of two bytes, the byte at the lower address high (R58). -/
def wordOfBytes (hi lo : Byte) : Word := zextByte hi <<< 8 ||| zextByte lo

/-- Decoding from the bytes in memory order, total on any list of bytes: the first two are the word (R58, R70). -/
def decodeBytes (strict : Bool) : List Byte → Decoded
  | hi :: lo :: _ => decode strict (wordOfBytes hi lo)
  | bs => .reject (.tooShort bs.length)

/-! ## The encoder, from the encoding lines of files 41 to 45 and the layouts of R73 -/

/-- A 4-bit field placed at bit `bit` of a word (R71). -/
def placeNibble (b : BitVec 4) (bit : Nat) : Word := b.setWidth 16 <<< bit

/-- A register number as a 4-bit field (R71). -/
def nibbleOfReg (r : Reg) : BitVec 4 := BitVec.ofNat 4 r.val

/-- Layouts F-NONE and F-NNN: op, then 12 bits (R73). -/
def layoutNNN (op : BitVec 4) (nnn : BitVec 12) : Word := placeNibble op 12 ||| zextAddr nnn

/-- Layouts F-XNN and F-X: op, X, then 8 bits (R73). -/
def layoutXNN (op : BitVec 4) (x : Reg) (nn : Byte) : Word :=
  placeNibble op 12 ||| placeNibble (nibbleOfReg x) 8 ||| zextByte nn

/-- Layouts F-XY and F-XYN: op, X, Y, then 4 bits (R73). -/
def layoutXYN (op : BitVec 4) (x y : Reg) (n : BitVec 4) : Word :=
  placeNibble op 12 ||| placeNibble (nibbleOfReg x) 8 ||| placeNibble (nibbleOfReg y) 4 ||| placeNibble n 0

/-- The canonical word of an instruction: every ignored nibble 0, so that STRICT_DECODE reads it too (R75, R77, R80). -/
def encode : Instr → Word
  | .op00E0 => layoutNNN 0x0 0x0E0
  | .op00EE => layoutNNN 0x0 0x0EE
  | .op1NNN nnn => layoutNNN 0x1 nnn
  | .op2NNN nnn => layoutNNN 0x2 nnn
  | .op3XNN x nn => layoutXNN 0x3 x nn
  | .op4XNN x nn => layoutXNN 0x4 x nn
  | .op5XY0 x y => layoutXYN 0x5 x y 0x0
  | .op9XY0 x y => layoutXYN 0x9 x y 0x0
  | .op6XNN x nn => layoutXNN 0x6 x nn
  | .op7XNN x nn => layoutXNN 0x7 x nn
  | .op8XY0 x y => layoutXYN 0x8 x y 0x0
  | .op8XY1 x y => layoutXYN 0x8 x y 0x1
  | .op8XY2 x y => layoutXYN 0x8 x y 0x2
  | .op8XY3 x y => layoutXYN 0x8 x y 0x3
  | .op8XY4 x y => layoutXYN 0x8 x y 0x4
  | .op8XY5 x y => layoutXYN 0x8 x y 0x5
  | .op8XY6 x => layoutXYN 0x8 x 0 0x6
  | .op8XY7 x y => layoutXYN 0x8 x y 0x7
  | .op8XYE x => layoutXYN 0x8 x 0 0xE
  | .opANNN nnn => layoutNNN 0xA nnn
  | .opBNNN nnn => layoutNNN 0xB nnn
  | .opCXNN x nn => layoutXNN 0xC x nn
  | .opDXYN x y n => layoutXYN 0xD x y n
  | .opEX9E x => layoutXNN 0xE x 0x9E
  | .opEXA1 x => layoutXNN 0xE x 0xA1
  | .opFX07 x => layoutXNN 0xF x 0x07
  | .opFX0A x => layoutXNN 0xF x 0x0A
  | .opFX15 x => layoutXNN 0xF x 0x15
  | .opFX18 x => layoutXNN 0xF x 0x18
  | .opFX1E x => layoutXNN 0xF x 0x1E
  | .opFX29 x => layoutXNN 0xF x 0x29
  | .opFX33 x => layoutXNN 0xF x 0x33
  | .opFX55 x => layoutXNN 0xF x 0x55
  | .opFX65 x => layoutXNN 0xF x 0x65

/-- The high byte of a word, which stands at the lower address (R58). -/
def highByte (w : Word) : Byte := w.extractLsb' 8 8

/-- The low byte of a word (R58). -/
def lowByte (w : Word) : Byte := w.extractLsb' 0 8

/-- The bytes of an instruction in memory order (R58). -/
def encodeBytes (i : Instr) : List Byte := [highByte (encode i), lowByte (encode i)]

/-! ## The opcode map of R80 as data -/

/-- A row of R80: "a word w selects the row when (w & mask) = match". -/
structure OpcodeRow where
  /-- the pattern's name -/
  pattern : String
  /-- the mask of the default decoder -/
  mask : Word
  /-- the match -/
  bits : Word
  /-- the mask under STRICT_DECODE -/
  strictMask : Word
deriving DecidableEq, Repr

/-- The mask of a row under a decoder mode. -/
def OpcodeRow.maskOf (r : OpcodeRow) (strict : Bool) : Word := if strict then r.strictMask else r.mask

/-- The row of R80 that an instruction stands in. -/
def rowOf : Instr → OpcodeRow
  | .op00E0 => ⟨"00E0", 0xF0FF, 0x00E0, 0xFFFF⟩
  | .op00EE => ⟨"00EE", 0xF0FF, 0x00EE, 0xFFFF⟩
  | .op1NNN _ => ⟨"1NNN", 0xF000, 0x1000, 0xF000⟩
  | .op2NNN _ => ⟨"2NNN", 0xF000, 0x2000, 0xF000⟩
  | .op3XNN _ _ => ⟨"3XNN", 0xF000, 0x3000, 0xF000⟩
  | .op4XNN _ _ => ⟨"4XNN", 0xF000, 0x4000, 0xF000⟩
  | .op5XY0 _ _ => ⟨"5XY0", 0xF000, 0x5000, 0xF00F⟩
  | .op9XY0 _ _ => ⟨"9XY0", 0xF000, 0x9000, 0xF00F⟩
  | .op6XNN _ _ => ⟨"6XNN", 0xF000, 0x6000, 0xF000⟩
  | .op7XNN _ _ => ⟨"7XNN", 0xF000, 0x7000, 0xF000⟩
  | .op8XY0 _ _ => ⟨"8XY0", 0xF00F, 0x8000, 0xF00F⟩
  | .op8XY1 _ _ => ⟨"8XY1", 0xF00F, 0x8001, 0xF00F⟩
  | .op8XY2 _ _ => ⟨"8XY2", 0xF00F, 0x8002, 0xF00F⟩
  | .op8XY3 _ _ => ⟨"8XY3", 0xF00F, 0x8003, 0xF00F⟩
  | .op8XY4 _ _ => ⟨"8XY4", 0xF00F, 0x8004, 0xF00F⟩
  | .op8XY5 _ _ => ⟨"8XY5", 0xF00F, 0x8005, 0xF00F⟩
  | .op8XY6 _ => ⟨"8XY6", 0xF00F, 0x8006, 0xF00F⟩
  | .op8XY7 _ _ => ⟨"8XY7", 0xF00F, 0x8007, 0xF00F⟩
  | .op8XYE _ => ⟨"8XYE", 0xF00F, 0x800E, 0xF00F⟩
  | .opANNN _ => ⟨"ANNN", 0xF000, 0xA000, 0xF000⟩
  | .opBNNN _ => ⟨"BNNN", 0xF000, 0xB000, 0xF000⟩
  | .opCXNN _ _ => ⟨"CXNN", 0xF000, 0xC000, 0xF000⟩
  | .opDXYN _ _ _ => ⟨"DXYN", 0xF000, 0xD000, 0xF000⟩
  | .opEX9E _ => ⟨"EX9E", 0xF0FF, 0xE09E, 0xF0FF⟩
  | .opEXA1 _ => ⟨"EXA1", 0xF0FF, 0xE0A1, 0xF0FF⟩
  | .opFX07 _ => ⟨"FX07", 0xF0FF, 0xF007, 0xF0FF⟩
  | .opFX0A _ => ⟨"FX0A", 0xF0FF, 0xF00A, 0xF0FF⟩
  | .opFX15 _ => ⟨"FX15", 0xF0FF, 0xF015, 0xF0FF⟩
  | .opFX18 _ => ⟨"FX18", 0xF0FF, 0xF018, 0xF0FF⟩
  | .opFX1E _ => ⟨"FX1E", 0xF0FF, 0xF01E, 0xF0FF⟩
  | .opFX29 _ => ⟨"FX29", 0xF0FF, 0xF029, 0xF0FF⟩
  | .opFX33 _ => ⟨"FX33", 0xF0FF, 0xF033, 0xF0FF⟩
  | .opFX55 _ => ⟨"FX55", 0xF0FF, 0xF055, 0xF0FF⟩
  | .opFX65 _ => ⟨"FX65", 0xF0FF, 0xF065, 0xF0FF⟩

/-! ## The host's view -/

/-- The word of the host's number: the first and only 16-bit word, the bits above `nbits` zero. -/
def tableWord (nbits w : Nat) : Word := BitVec.ofNat 16 (w % 2 ^ nbits)

/-- The instruction the decoder reads from the bytes of a table word as the hardware stores them (R58), with the
default STRICT_DECODE. -/
def decodeTableWord (nbits w : Nat) : Option Instr :=
  match decodeBytes Config.default.strictDecode [highByte (tableWord nbits w), lowByte (tableWord nbits w)] with
  | .instr i => some i
  | .reject _ => none

end Sys2Proof
end

