-- ==== Sys2Proof/Machine/State.lean ====
section
/-! DEFINITION. Machine/State.lean: everything the spec gives the machine (10_state.md; 20_memory.md R50; 60_exceptions.md
R226, R239; 70_reset_and_hazards.md R265), as plain data, and its value after reset (10_state.md R39). -/

namespace Sys2Proof.Machine

/-- The runtime-fatal conditions (R221). -/
inductive FatalCode
  /-- code 1: the fetch, PC + 1 > 0xFFF -/
  | fetchOob
  /-- code 2: CALL with SP = 16 -/
  | stackOverflow
  /-- code 3: RETURN with SP = 0 -/
  | stackUnderflow
deriving DecidableEq, Repr

/-- The construction-time fatal conditions (R224). -/
inductive ConstructionError
  /-- code 0x20 -/
  | romTooLarge
  /-- code 0x21 -/
  | romOddLength
  /-- code 0x22 -/
  | romUnreadable
deriving DecidableEq, Repr

/-- The recoverable conditions (R225). -/
inductive DiagCode
  /-- code 0x10 -/
  | memReadOob
  /-- code 0x11 -/
  | memWriteOob
  /-- code 0x12 -/
  | unknownOpcode
  /-- code 0x13 -/
  | keyRange
deriving DecidableEq, Repr

/-- RUN, the engine's run state (R34). -/
inductive RunState
  | running
  | idle
  | halted (code : FatalCode)
  | shutdown
deriving DecidableEq, Repr

/-- An entry (code, info, PC) of the diagnostic log (R226). `info` is an address (up to 0x1000E), a word or a register
value, so a plain number. -/
structure DiagEntry where
  code : DiagCode
  info : Nat
  pc : Word
deriving DecidableEq, Repr

/-- What the error port surfaces (R222, R224, R239): of a fatal error the code, the PC, and for codes 2 and 3 the
instruction word; of a construction error the code. -/
inductive ErrorRecord
  | fatal (code : FatalCode) (pc : Word) (word : Option Word)
  | construction (e : ConstructionError)
deriving DecidableEq, Repr

/-- An event on an output port of R239. -/
inductive PortEvent
  /-- `emit Tone(on)` (R237) -/
  | tone (on : Bool)
  /-- `fb_clear()` (R185) -/
  | fbClear
  /-- `fb_drawRow(x, y, byte) -> collided` (R186) -/
  | fbDrawRow (x y : Nat) (byte : Byte) (collided : Bool)
  /-- a diagnostic (R226) -/
  | diag (entry : DiagEntry)
  /-- an error, once (R222, R224) -/
  | error (record : ErrorRecord)
deriving DecidableEq, Repr

/-- The ROM source handed to a reset: a byte image, or a source that cannot be read (R262). -/
inductive RomSource
  | unreadable
  | image (bytes : List Byte)
deriving DecidableEq, Repr

/-- A step of the Host agent (R240, R244). -/
inductive HostStep
  /-- the key sampler: KEY[k] changes (R236) -/
  | setKey (k : Fin 16) (pressed : Bool)
  /-- the shutdown request (R238) -/
  | shutdown
  /-- VM construction or ROM reload (R260, R261) -/
  | load (rom : RomSource)
  /-- VM teardown (R265) -/
  | teardown
deriving DecidableEq, Repr

/-- Which agent moves, and for the host, how (R240). -/
inductive AgentStep
  | cpu
  | delayTick
  | soundTick
  | host (h : HostStep)
deriving DecidableEq, Repr

/-- The machine's state. The fields down to `outputs` are the spec's, listed with their rules in INVENTORY.md; `draws` and
`schedule` are the model's own. -/
structure State where
  /-- V0..VF (R20) -/
  v : Vector Byte 16
  /-- I (R23) -/
  i : Word
  /-- PC (R24) -/
  pc : Word
  /-- SP, the number of stack entries in use, 0..16 (R26) -/
  sp : Fin 17
  /-- STACK[0..15] (R26) -/
  stack : Vector Word 16
  /-- DT (R28) -/
  dt : Byte
  /-- ST (R29) -/
  st : Byte
  /-- TONE (R37) -/
  tone : Bool
  /-- KEY[0..15] (R31) -/
  key : Vector Bool 16
  /-- FB: DISPLAY_H rows, top first, each of DISPLAY_W pixels, left first (R32) -/
  fb : List (List Bool)
  /-- RUN (R34) -/
  run : RunState
  /-- PC_UPDATED (R35) -/
  pcUpdated : Bool
  /-- ROM_END (R36) -/
  romEnd : Nat
  /-- memory: the cells that differ from the reset contents, addresses rising (R50; `Memory.wf`) -/
  mem : List Host.Cell
  /-- the configuration, fixed at construction (R33, R6) -/
  cfg : Config
  /-- whether the VM exists: false after a teardown (R224, R265) -/
  live : Bool
  /-- the diagnostic log, oldest first (R226) -/
  diagLog : List DiagEntry
  /-- the events surfaced on the output ports, oldest first (R239) -/
  outputs : List PortEvent
  /-- the model's own: how many free values have been drawn (log 7, log 8) -/
  draws : Nat
  /-- the model's own: the agents' steps to come; where it is empty the CPU steps (log 1) -/
  schedule : List AgentStep
deriving DecidableEq, Repr

/-- Why the machine stops with a fault. No instruction and no error of the spec's run-time taxonomy does: a fatal error is
the next state HALTED(code) (R222). -/
inductive Fault
  /-- Raised by `step` when an agent other than a constructing host is to step after teardown: "After teardown no agent
  of the block steps" (R265). Safe: there is no machine to go on. -/
  | tornDown
deriving DecidableEq, Repr

/-- Why the model gives no meaning. -/
inductive Refusal
  /-- Raised by an arm of `exec` whose instruction has no meaning yet; no arm does. Safe. -/
  | notModelled (mnemonic : String)
deriving DecidableEq, Repr

/-- What a meaning answers. -/
abbrev Answer := Host.Outcome State Fault Refusal

/-- The state after construction with an empty ROM image under configuration `c`: the table of R39 with L = 0.
I, STACK, KEY, FB, RUN, PC_UPDATED and the log are the spec's own decision D16 (log 9); `outputs`, `draws` and `schedule`
are the model's (log 16, log 7, log 1). -/
def State.initial (c : Config) : State where
  v := Vector.replicate 16 0
  i := 0
  pc := 0x200
  sp := 0
  stack := Vector.replicate 16 0
  dt := 0
  st := 0
  tone := false
  key := Vector.replicate 16 false
  fb := List.replicate c.displayH (List.replicate c.displayW false)
  run := .running
  pcUpdated := false
  romEnd := progBase
  mem := []
  cfg := c
  live := true
  diagLog := []
  outputs := []
  draws := 0
  schedule := []

/-- The machine right after reset, with the default configuration (R6, R39) and no ROM loaded: how a program comes to
run is log 10. -/
def State.reset : State := State.initial Config.default

end Sys2Proof.Machine
end

