-- ==== Sys2Proof/Machine/Ops.lean ====
section
/-! DEFINITION. Machine/Ops.lean: the named operations over registers, memory, stack, ports and the program counter, and
the entry of a fatal error. Spec 00_scope.md R10 to R12, 10_state.md R27, 20_memory.md R50 to R59,
40_execution_cycle.md R93, R96, R97, R98, 60_exceptions.md R220 to R226. -/

namespace Sys2Proof.Machine

/-! ## The codes of R221, R224 and R225 -/

/-- The number of a fatal code (R221). -/
def FatalCode.number : FatalCode → Nat
  | .fetchOob => 1
  | .stackOverflow => 2
  | .stackUnderflow => 3

/-- The number of a diagnostic code (R225). -/
def DiagCode.number : DiagCode → Nat
  | .memReadOob => 0x10
  | .memWriteOob => 0x11
  | .unknownOpcode => 0x12
  | .keyRange => 0x13

/-- The number of a construction error (R224). -/
def ConstructionError.number : ConstructionError → Nat
  | .romTooLarge => 0x20
  | .romOddLength => 0x21
  | .romUnreadable => 0x22

/-! ## General registers (R10, R20) -/

/-- V[r]. -/
def State.reg (s : State) (r : Reg) : Byte := s.v[r.val]

/-- V[r] <- b. No register is hard-wired (R20). -/
def State.setReg (s : State) (r : Reg) (b : Byte) : State := { s with v := s.v.set r.val b }

/-- I <- w: never masked (R23). -/
def State.setI (s : State) (w : Word) : State := { s with i := w }

/-- DT <- b, one indivisible write (R28, R61). -/
def State.setDelay (s : State) (b : Byte) : State := { s with dt := b }

/-! ## Ports and diagnostics -/

/-- An event on an output port (R239). -/
def State.emit (s : State) (e : PortEvent) : State := { s with outputs := s.outputs ++ [e] }

/-- `diag(code, info)`: if DIAG_ENABLED, (code, info, PC) is appended to the log and surfaced; otherwise nothing (R226). -/
def State.diag (s : State) (code : DiagCode) (info : Nat) : State :=
  { s with
    diagLog := if s.cfg.diagEnabled then s.diagLog ++ [⟨code, info, s.pc⟩] else s.diagLog
    outputs := if s.cfg.diagEnabled then s.outputs ++ [.diag ⟨code, info, s.pc⟩] else s.outputs }

/-! ## Memory (R50, R52, R53) -/

/-- The byte a list of cells gives an address, if it lists it. -/
def cellAt (a : Nat) : List Host.Cell → Option Byte
  | [] => none
  | (b, v) :: rest => if b = a then some v else cellAt a rest

/-- What an unlisted address reads as: the reset contents, FONT at 0x050..0x09F and MEM_INIT elsewhere (R56, R261; log 6). -/
def memBackground (c : Config) (a : Nat) : Byte :=
  if fontBase ≤ a ∧ a < fontBase + fontSize then c.font.getD (a - fontBase) 0
  else (cellAt a c.memInit).getD 0

/-- Write `v` at address `a` in a list of cells, `bg` being what `a` reads as unlisted: the entry is placed in order,
replaced, or removed where `v` is `bg`. -/
def putCell (bg : Byte) (a : Nat) (v : Byte) : List Host.Cell → List Host.Cell
  | [] => if v = bg then [] else [(a, v)]
  | (b, u) :: rest =>
    if a < b then (if v = bg then (b, u) :: rest else (a, v) :: (b, u) :: rest)
    else if a = b then (if v = bg then rest else (a, v) :: rest)
    else (b, u) :: putCell bg a v rest

/-- The canonical form of memory: addresses strictly rising, inside the space, no entry equal to what its address reads as
unlisted. -/
abbrev Memory.wf (c : Config) (m : List Host.Cell) : Prop :=
  m.Pairwise (fun x y => x.1 < y.1) ∧ ∀ x ∈ m, x.1 < memSize ∧ x.2 ≠ memBackground c x.1

/-- mem[a]: the array itself, without the range check of R52. -/
def State.byteAt (s : State) (a : Nat) : Byte := (cellAt a s.mem).getD (memBackground s.cfg a)

/-- mem[a] <- v: the array itself, without the range check of R53. -/
def State.putByte (s : State) (a : Nat) (v : Byte) : State :=
  { s with mem := putCell (memBackground s.cfg a) a v s.mem }

/-- Bytes written one after another from address `a` up (the ROM's load, R261). -/
def putBytes (a : Nat) : List Byte → State → State
  | [], s => s
  | b :: bs, s => putBytes (a + 1) bs (s.putByte a b)

/-- A free value has been drawn: the next one is another (R12; log 7, log 8). -/
def State.countDraw (s : State) : State := { s with draws := s.draws + 1 }

/-- `MemRead(a, 1)` (R52): in range the cell; out of range a diagnostic and the free value OOB_READ_VALUE, fresh at each
access (D9; log 8). -/
def State.memRead (s : State) (a : Nat) : Byte × State :=
  if a < memSize then (s.byteAt a, s)
  else (Config.freeOobRead s.draws, (s.diag .memReadOob a).countDraw)

/-- `MemWrite(a, 1, v)` (R53): in range the write; out of range a diagnostic, the value discarded. -/
def State.memWrite (s : State) (a : Nat) (v : Byte) : State :=
  if a < memSize then s.putByte a v else s.diag .memWriteOob a

/-- `draw RAND` (R143): a free value, fresh per execution (D28; log 7). -/
def State.drawRand (s : State) : Byte × State := (Config.freeRand s.draws, s.countDraw)

/-- `Fetch(PC) = (mem[PC] << 8) | mem[PC+1]`, PC + 1 an exact sum; no diagnostic, no state changed, any alignment
(R93, R58, R59). -/
def State.fetchWord (s : State) : Word := wordOfBytes (s.byteAt s.pc.toNat) (s.byteAt (s.pc.toNat + 1))

/-! ## The entry of a fatal error, and why there is no return from one

`raise Fatal(code)` is the machine's only exception. Entry (R222): the raising instruction changes nothing else, RUN becomes
HALTED(code), and the record is surfaced on the error port once. No register saves anything, PC stays at the faulting
address, there is no vector, no handler, and "no instruction returns from it" (R220, R223): the only way out is a reset
(Machine/Reset.lean). -/

/-- `raise Fatal(code)` with the word to record, if the code records one (R221, R222; D14). -/
def State.raiseFatal (s : State) (code : FatalCode) (word : Option Word) : State :=
  { s with run := .halted code, outputs := s.outputs ++ [.error (.fatal code s.pc word)] }

/-- `raise Fatal` inside an instruction: the record holds the instruction's word, which still stands at PC, since the
raising instructions write no memory (R222; log 11). -/
def State.raiseFatalAtInstr (s : State) (code : FatalCode) : State := s.raiseFatal code (some s.fetchWord)

/-! ## The program counter (R24, R35, R96, R97, R98) -/

/-- `PC <- target; PC_UPDATED <- true`: an explicit control transfer (R35, R117). -/
def State.jumpTo (s : State) (target : Word) : State := { s with pc := target, pcUpdated := true }

/-- The skip: `if cond: PC <- trunc_16(PC + 2)`, PC_UPDATED untouched (R97). -/
def State.skipIf (s : State) (cond : Bool) : State := { s with pc := if cond then s.pc + 2 else s.pc }

/-- The common PC advance: PC <- trunc_16(PC + 2) unless PC_UPDATED (R96). -/
def State.commonAdvance (s : State) : State := { s with pc := if s.pcUpdated then s.pc else s.pc + 2 }

/-- The end of an instruction that neither held nor raised Fatal (R96). -/
def complete (s : State) : Answer := .next s.commonAdvance

/-- `hold`: the instruction does not complete and changes nothing; it is fetched again at the next CPU step (R98). -/
def hold (s : State) : Answer := .next s

/-! ## The call stack (R26, R27) -/

/-- Push: with SP = 16 Fatal(STACK_OVERFLOW), nothing changed; else STACK[SP] <- value, SP <- SP + 1, and the instruction
goes on as `k` says. -/
def State.push (s : State) (value : Word) (k : State → Answer) : Answer :=
  if h : s.sp.val < stackDepth then
    k { s with stack := s.stack.set s.sp.val value, sp := ⟨s.sp.val + 1, Nat.succ_lt_succ h⟩ }
  else .next (s.raiseFatalAtInstr .stackOverflow)

/-- STACK[k], for k < 16. -/
def State.stackAt (s : State) (k : Nat) : Word := s.stack[k]?.getD 0

/-- Pop: with SP = 0 Fatal(STACK_UNDERFLOW), nothing changed; else SP <- SP - 1, and the instruction goes on with
STACK[SP]. A popped entry keeps its value. -/
def State.pop (s : State) (k : Word → State → Answer) : Answer :=
  if s.sp.val = 0 then .next (s.raiseFatalAtInstr .stackUnderflow)
  else k (s.stackAt (s.sp.val - 1)) { s with sp := ⟨s.sp.val - 1, Nat.lt_of_le_of_lt (Nat.sub_le _ _) s.sp.isLt⟩ }

/-! ## Keys (R31, R206) -/

/-- KEY[k], for k < 16; false for any other k. -/
def State.keyDown (s : State) (k : Nat) : Bool := s.key[k]?.getD false

/-- The key test of EX9E and EXA1 (R206): KEY[b] for b <= 0xF; for b > 0xF not pressed, with a KEY_RANGE diagnostic (D10). -/
def State.keyPressed (s : State) (b : Byte) : Bool × State :=
  if b.toNat ≤ 0xF then (s.keyDown b.toNat, s) else (false, s.diag .keyRange b.toNat)

/-- The lowest-numbered pressed key, if any (R205; D11). -/
def State.lowestKey (s : State) : Option Nat := (List.range 16).find? s.keyDown

/-! ## The sound timer's tone (R233) -/

/-- ST <- b with its tone transitions (R204, R233): Tone(true) and TONE on when ST leaves 0, Tone(false) and TONE off when
it returns to 0 by a write, nothing otherwise. -/
def State.setSound (s : State) (b : Byte) : State :=
  { s with
    st := b
    tone := if s.st = 0 ∧ b ≠ 0 then true else if s.st ≠ 0 ∧ b = 0 then false else s.tone
    outputs :=
      if s.st = 0 ∧ b ≠ 0 then s.outputs ++ [.tone true]
      else if s.st ≠ 0 ∧ b = 0 then s.outputs ++ [.tone false] else s.outputs }

end Sys2Proof.Machine
end

