-- ==== Sys2Proof/Machine/Operands.lean ====
section
/-! DEFINITION. Machine/Operands.lean: the operand forms: the addressing modes of 43_index_memory.md R162 with the
effective address of 20_memory.md R54, the font address of R165, the decimal digits of R166 and the register ranges of
FX55 and FX65. -/

namespace Sys2Proof.Machine

/-- The effective address I + k: an exact sum that never wraps (R54; D8). -/
def State.dataAddr (s : State) (k : Nat) : Nat := s.i.toNat + k

/-- V0..VX inclusive, ascending (R167, R168). -/
def regsUpTo (x : Reg) : List Reg := (List.finRange 16).take (x.val + 1)

/-- `MemWrite(I + k)`, `MemWrite(I + k + 1)`, … of a list of bytes, ascending, each byte checked on its own (R53, R162). -/
def storeBytes (k : Nat) : List Byte → State → State
  | [], s => s
  | b :: bs, s => storeBytes (k + 1) bs (s.memWrite (s.dataAddr k) b)

/-- `V[r] <- MemRead(I + r, 1)` (R168). -/
def State.loadReg (s : State) (r : Reg) : State :=
  let read := s.memRead (s.dataAddr r.val)
  read.2.setReg r read.1

/-- The loop of FX65 over a list of registers (R168). -/
def loadRegs : List Reg → State → State
  | [], s => s
  | r :: rs, s => loadRegs rs (s.loadReg r)

/-- FONT_BASE + 5 * (b & 0x0F) (R165). -/
def glyphAddr (b : Byte) : Word := BitVec.ofNat 16 (fontBase + fontGlyphBytes * (b &&& 0x0F).toNat)

/-- The decimal digits of a byte: hundreds, tens, ones (R166). -/
def decimalDigits (b : Byte) : List Byte :=
  [BitVec.ofNat 8 (b.toNat / 100), BitVec.ofNat 8 (b.toNat / 10 % 10), BitVec.ofNat 8 (b.toNat % 10)]

/-- `t <- V[0] + NNN`, exact: at most 0x10FE, so it fits 16 bits (R161). -/
def indexedTarget (s : State) (nnn : BitVec 12) : Word := zextByte (s.reg v0) + zextAddr nnn

/-- The return address of CALL, trunc_16(PC + 2) (R112). -/
def State.returnAddr (s : State) : Word := s.pc + 2

end Sys2Proof.Machine
end

