-- ==== Sys2Proof/Machine/Reset.lean ====
section
/-! DEFINITION. Machine/Reset.lean: the reset: VM construction and ROM reload, one host step (70_reset_and_hazards.md R260 to
R262), and teardown (R265). -/

namespace Sys2Proof.Machine

/-- ROM acceptance (R262): readable, then not too large, then (if ROM_INTEGRITY_CHECK) of even length; the first check that
fails is reported (D31). -/
def checkRom (c : Config) : RomSource → Except ConstructionError (List Byte)
  | .unreadable => .error .romUnreadable
  | .image rom =>
    if romMax < rom.length then .error .romTooLarge
    else if c.romIntegrityCheck && decide (rom.length % 2 = 1) then .error .romOddLength
    else .ok rom

/-- The reset's effect for an accepted ROM (R261): the table of R39 under the configuration the machine has, the ROM's bytes
at 0x200, ROM_END behind them, and Tone(false) if the tone was on (R235). Of the run before it keeps the configuration
("fixed at construction", R33), what was already surfaced (R260) and the model's own `draws` and `schedule` (log 13,
log 22). -/
def State.resetWith (s : State) (rom : List Byte) : State :=
  putBytes progBase rom
    { State.initial s.cfg with
      romEnd := progBase + rom.length
      outputs := if s.tone then s.outputs ++ [.tone false] else s.outputs
      draws := s.draws
      schedule := s.schedule }

/-- Teardown: no agent of the block steps afterwards (R265; log 14, log 15). -/
def State.tearDown (s : State) : State := { s with live := false }

/-- `Reset(rom)` (R261): a refused ROM surfaces the construction error and leaves no VM ("on reload, the old VM is torn
down"; R224, log 14). -/
def State.load (s : State) (rom : RomSource) : State :=
  match checkRom s.cfg rom with
  | .ok bytes => s.resetWith bytes
  | .error e => (s.emit (.error (.construction e))).tearDown

end Sys2Proof.Machine
end

