-- ==== Sys2Proof/Machine/Agents.lean ====
section
/-! DEFINITION. Machine/Agents.lean: the steps of the agents beside the CPU: the two timers (60_exceptions.md R230 to
R235) and the host (R236, R238, 70_reset_and_hazards.md R260, R265). An agent that is scheduled without an enabled step
changes nothing (log 2). -/

namespace Sys2Proof.Machine

/-- The DelayTimer's step: `if DT != 0 then DT <- DT - 1`, in every run state (R231, R61). -/
def State.delayTick (s : State) : State := { s with dt := if s.dt = 0 then 0 else s.dt - 1 }

/-- The SoundTimer's step: `ST <- ST - 1; if ST = 0: TONE <- false; emit Tone(false)`, enabled when ST != 0 (R232). -/
def State.soundTick (s : State) : State :=
  { s with
    st := if s.st = 0 then 0 else s.st - 1
    tone := if s.st = 1 then false else s.tone
    outputs := if s.st = 1 then s.outputs ++ [.tone false] else s.outputs }

/-- The key sampler: KEY[k] <- pressed (R236; log 21). -/
def State.setKey (s : State) (k : Fin 16) (pressed : Bool) : State := { s with key := s.key.set k.val pressed }

/-- Where a shutdown request takes RUN: RUNNING and IDLE to SHUTDOWN; in HALTED and SHUTDOWN it changes nothing (R238; D30). -/
def runAfterShutdown : RunState → RunState
  | .running => .shutdown
  | .idle => .shutdown
  | .halted code => .halted code
  | .shutdown => .shutdown

/-- The shutdown request, which falls between two CPU steps and so takes effect at once, in an FX0A hold too (R238, R98; log 18). -/
def State.requestShutdown (s : State) : State := { s with run := runAfterShutdown s.run }

/-- The step of a host that finds a live VM, or constructs one. -/
def State.hostStep (s : State) : HostStep → State
  | .setKey k pressed => s.setKey k pressed
  | .shutdown => s.requestShutdown
  | .load rom => s.load rom
  | .teardown => s.tearDown

/-- Whether a step is a VM construction, the one step a block that does not exist can take (R260, R265). -/
def AgentStep.constructs : AgentStep → Bool
  | .host (.load _) => true
  | _ => false

end Sys2Proof.Machine
end

