-- ==== Sys2Proof/Machine/Flags.lean ====
section
/-! DEFINITION. Machine/Flags.lean: every value the flag register VF takes as a side effect (10_state.md R21), and the
order in which result and flag are written (42_register_alu.md R130, R131). The collision flag's bit is computed by the
framebuffer controller (Machine/Framebuffer.lean). -/

namespace Sys2Proof.Machine

/-- A flag as the byte written to VF: 1 or 0. -/
def flagByte (c : Bool) : Byte := if c then 1 else 0

/-- The carry of 8XY4, of the exact sum: V[X] + V[Y] > 255 (R131, R138). -/
def carryOut (a b : Byte) : Bool := decide (a.toNat + b.toNat > 255)

/-- NOT borrow of a - b: the minuend is at least the subtrahend (R131, R139, R141). -/
def notBorrow (a b : Byte) : Bool := decide (a.toNat ≥ b.toNat)

/-- The bit 8XY6 shifts out: a & 0x01 (R140). -/
def shrOut (a : Byte) : Byte := a &&& 0x01

/-- The bit 8XYE shifts out: (a >> 7) & 0x01 (R142). -/
def shlOut (a : Byte) : Byte := (a >>> 7) &&& 0x01

/-- The result to VX first, the flag to VF last: with X = F the flag stands (R130). -/
def State.resultThenFlag (s : State) (x : Reg) (result flag : Byte) : State := (s.setReg x result).setReg vF flag

/-- The flag to VF first, then the result of VX read again after that write (R130, FLAG_FIRST). -/
def State.flagThenResult (s : State) (x : Reg) (f g : Byte → Byte) : State :=
  (s.setReg vF (g (s.reg x))).setReg x (f ((s.setReg vF (g (s.reg x))).reg x))

/-- A shift with result `f` and flag `g` of VX, in the order SHIFT_FLAG_ORDER says (R130; D5). -/
def State.shiftWithFlag (s : State) (x : Reg) (f g : Byte → Byte) : State :=
  match s.cfg.shiftFlagOrder with
  | .flagLast => s.resultThenFlag x (f (s.reg x)) (g (s.reg x))
  | .flagFirst => s.flagThenResult x f g

end Sys2Proof.Machine
end

