-- ==== Sys2Proof/Machine/Alu.lean ====
section
/-! DEFINITION. Machine/Alu.lean: register loads, arithmetic and logic, spec 42_register_alu.md R130 to R143. -/

namespace Sys2Proof.Machine

/-- 6XNN (R132). -/
def exec6XNN (x : Reg) (nn : Byte) (s : State) : Answer := complete (s.setReg x nn)

/-- 7XNN (R133): no flag. -/
def exec7XNN (x : Reg) (nn : Byte) (s : State) : Answer := complete (s.setReg x (s.reg x + nn))

/-- 8XY0 (R134). -/
def exec8XY0 (x y : Reg) (s : State) : Answer := complete (s.setReg x (s.reg y))

/-- 8XY1 (R135): VF unchanged unless X = F (D6). -/
def exec8XY1 (x y : Reg) (s : State) : Answer := complete (s.setReg x (s.reg x ||| s.reg y))

/-- 8XY2 (R136): VF unchanged unless X = F (D6). -/
def exec8XY2 (x y : Reg) (s : State) : Answer := complete (s.setReg x (s.reg x &&& s.reg y))

/-- 8XY3 (R137): VF unchanged unless X = F (D6). -/
def exec8XY3 (x y : Reg) (s : State) : Answer := complete (s.setReg x (s.reg x ^^^ s.reg y))

/-- 8XY4 (R138). -/
def exec8XY4 (x y : Reg) (s : State) : Answer :=
  complete (s.resultThenFlag x (s.reg x + s.reg y) (flagByte (carryOut (s.reg x) (s.reg y))))

/-- 8XY5 (R139). -/
def exec8XY5 (x y : Reg) (s : State) : Answer :=
  complete (s.resultThenFlag x (s.reg x - s.reg y) (flagByte (notBorrow (s.reg x) (s.reg y))))

/-- 8XY6 (R140): VY is neither read nor written. -/
def exec8XY6 (x : Reg) (s : State) : Answer := complete (s.shiftWithFlag x (fun a => a >>> 1) shrOut)

/-- 8XY7 (R141). -/
def exec8XY7 (x y : Reg) (s : State) : Answer :=
  complete (s.resultThenFlag x (s.reg y - s.reg x) (flagByte (notBorrow (s.reg y) (s.reg x))))

/-- 8XYE (R142): VY is neither read nor written. -/
def exec8XYE (x : Reg) (s : State) : Answer := complete (s.shiftWithFlag x (fun a => a <<< 1) shlOut)

/-- CXNN (R143): the random byte is a free value (D28; log 7). -/
def execCXNN (x : Reg) (nn : Byte) (s : State) : Answer :=
  complete (s.drawRand.2.setReg x (s.drawRand.1 &&& nn))

end Sys2Proof.Machine
end

