-- ==== Sys2Proof/Machine/Control.lean ====
section
/-! DEFINITION. Machine/Control.lean: return, jump, call and the register skips, spec 41_control_flow.md R110 to R116. -/

namespace Sys2Proof.Machine

/-- 00EE (R110): the popped address as it is. -/
def exec00EE (s : State) : Answer := s.pop fun target s' => complete (s'.jumpTo target)

/-- 1NNN (R111). -/
def exec1NNN (nnn : BitVec 12) (s : State) : Answer := complete (s.jumpTo (zextAddr nnn))

/-- 2NNN (R112). -/
def exec2NNN (nnn : BitVec 12) (s : State) : Answer :=
  s.push s.returnAddr fun s' => complete (s'.jumpTo (zextAddr nnn))

/-- 3XNN (R113). -/
def exec3XNN (x : Reg) (nn : Byte) (s : State) : Answer := complete (s.skipIf (decide (s.reg x = nn)))

/-- 4XNN (R114). -/
def exec4XNN (x : Reg) (nn : Byte) (s : State) : Answer := complete (s.skipIf (decide (s.reg x ≠ nn)))

/-- 5XY0 (R115). -/
def exec5XY0 (x y : Reg) (s : State) : Answer := complete (s.skipIf (decide (s.reg x = s.reg y)))

/-- 9XY0 (R116). -/
def exec9XY0 (x y : Reg) (s : State) : Answer := complete (s.skipIf (decide (s.reg x ≠ s.reg y)))

end Sys2Proof.Machine
end

