-- ==== Sys2Proof/Machine/Framebuffer.lean ====
section
/-! DEFINITION. Machine/Framebuffer.lean: the pixel-XOR framebuffer controller of 44_display.md R182 to R187 over the
pixel array FB of 10_state.md R32. -/

namespace Sys2Proof.Machine

/-- FB[x][y] of an array of rows; false outside it (log 23). -/
def pixelOf (fb : List (List Bool)) (x y : Nat) : Bool := (fb.getD y []).getD x false

/-- FB[x][y] of the machine (R32). -/
def State.pixel (s : State) (x y : Nat) : Bool := pixelOf s.fb x y

/-- `FB[x][y] <- FB[x][y] ^ 1` (R186). -/
def flipPixel (fb : List (List Bool)) (x y : Nat) : List (List Bool) :=
  fb.modify y (fun row => row.modify x (fun p => !p))

/-- Bit 7 - j of a sprite byte: pixel j counted from the left (R182). -/
def spriteBit (b : Byte) (j : Nat) : Bool := b.getLsbD (7 - j)

/-- The column loop of `fb_drawRow` over a list of columns j, ascending, on a display of W x H (R184, R186): each set bit
flips pixel ((x + j) mod W, y mod H), and a flip of a set pixel is a collision. -/
def drawColumns (w h x y : Nat) (b : Byte) : List Nat → List (List Bool) → Bool × List (List Bool)
  | [], fb => (false, fb)
  | j :: js, fb =>
    if spriteBit b j then
      let later := drawColumns w h x y b js (flipPixel fb ((x + j) % w) (y % h))
      (pixelOf fb ((x + j) % w) (y % h) || later.1, later.2)
    else drawColumns w h x y b js fb

/-- `fb_drawRow(x, y, b)` on the pixels: the collision and the new array (R186). -/
def drawRow (w h x y : Nat) (b : Byte) (fb : List (List Bool)) : Bool × List (List Bool) :=
  drawColumns w h x y b [0, 1, 2, 3, 4, 5, 6, 7] fb

/-- `fb_drawRow(x, y, b) -> collided` of the machine, with its port event (R186, R239). -/
def State.fbDrawRow (s : State) (x y : Nat) (b : Byte) : Bool × State :=
  let drawn := drawRow s.cfg.displayW s.cfg.displayH x y b s.fb
  (drawn.1, { s with fb := drawn.2, outputs := s.outputs ++ [.fbDrawRow x y b drawn.1] })

/-- `fb_clear()`: every pixel 0, with its port event (R185, R239). -/
def State.fbClear (s : State) : State :=
  { s with
    fb := List.replicate s.cfg.displayH (List.replicate s.cfg.displayW false)
    outputs := s.outputs ++ [.fbClear] }

/-- One row of a sprite: `b <- MemRead(I + row, 1); fb_drawRow(x0, y0 + row, b)` (R181). -/
def State.drawSpriteRow (s : State) (x0 y0 row : Nat) : Bool × State :=
  let read := s.memRead (s.dataAddr row)
  read.2.fbDrawRow x0 (y0 + row) read.1

/-- The row loop of DXYN from row `row` on, for `n` rows: whether any row collided, and the state after (R181). -/
def drawSprite (x0 y0 : Nat) : Nat → Nat → State → Bool × State
  | 0, _, s => (false, s)
  | n + 1, row, s =>
    let here := s.drawSpriteRow x0 y0 row
    let below := drawSprite x0 y0 n (row + 1) here.2
    (here.1 || below.1, below.2)

/-! ## The packed view at the collaborator port (R187) -/

/-- A bit as the number 0 or 1. -/
def bitNat (b : Bool) : Nat := if b then 1 else 0

/-- The byte of eight pixels, the leftmost bit 7 (R187). -/
def packByte (p0 p1 p2 p3 p4 p5 p6 p7 : Bool) : Byte :=
  BitVec.ofNat 8 (128 * bitNat p0 + 64 * bitNat p1 + 32 * bitNat p2 + 16 * bitNat p3 + 8 * bitNat p4 + 4 * bitNat p5 +
    2 * bitNat p6 + bitNat p7)

/-- fbbyte[row][k]: pixels 8k .. 8k + 7 of a row, pixel (x, y) at bit 7 - (x mod 8) (R187). -/
def packedByteOf (fb : List (List Bool)) (row k : Nat) : Byte :=
  packByte (pixelOf fb (8 * k) row) (pixelOf fb (8 * k + 1) row) (pixelOf fb (8 * k + 2) row)
    (pixelOf fb (8 * k + 3) row) (pixelOf fb (8 * k + 4) row) (pixelOf fb (8 * k + 5) row)
    (pixelOf fb (8 * k + 6) row) (pixelOf fb (8 * k + 7) row)

/-- The framebuffer port: W * H / 8 bytes, row-major, pixel (x, y) in byte y * (W/8) + (x div 8) (R187, R239). -/
def State.packedFramebuffer (s : State) : List Byte :=
  (List.range (s.cfg.displayW * s.cfg.displayH / 8)).map fun n =>
    packedByteOf s.fb (n / (s.cfg.displayW / 8)) (n % (s.cfg.displayW / 8))

end Sys2Proof.Machine
end

