-- ==== Sys2Proof/Machine/Display.lean ====
section
/-! DEFINITION. Machine/Display.lean: the display instructions, spec 44_display.md R180 and R181. -/

namespace Sys2Proof.Machine

/-- 00E0 (R180). -/
def exec00E0 (s : State) : Answer := complete s.fbClear

/-- DXYN (R181): the coordinates are read before VF is written; N = 0 draws nothing and clears VF. -/
def execDXYN (x y : Reg) (n : BitVec 4) (s : State) : Answer :=
  let drawn := drawSprite (s.reg x).toNat (s.reg y).toNat n.toNat 0 s
  complete (drawn.2.setReg vF (flagByte drawn.1))

end Sys2Proof.Machine
end

