-- ==== Sys2Proof/Machine/Index.lean ====
section
/-! DEFINITION. Machine/Index.lean: the index register and the memory instructions, spec 43_index_memory.md R160 to R168.
No memory instruction changes I (R163; D33). -/

namespace Sys2Proof.Machine

/-- ANNN (R160). -/
def execANNN (nnn : BitVec 12) (s : State) : Answer := complete (s.setI (zextAddr nnn))

/-- BNNN (R161): one effect for each BNNN_MODE (D3). -/
def execBNNN (nnn : BitVec 12) (s : State) : Answer :=
  match s.cfg.bnnnMode with
  | .index => complete (s.setI (indexedTarget s nnn))
  | .jump => complete (s.jumpTo (indexedTarget s nnn))

/-- FX1E (R164): modulo 2^16, VF unchanged (D7). -/
def execFX1E (x : Reg) (s : State) : Answer := complete (s.setI (s.i + zextByte (s.reg x)))

/-- FX29 (R165). -/
def execFX29 (x : Reg) (s : State) : Answer := complete (s.setI (glyphAddr (s.reg x)))

/-- FX33 (R166). -/
def execFX33 (x : Reg) (s : State) : Answer := complete (storeBytes 0 (decimalDigits (s.reg x)) s)

/-- FX55 (R167). -/
def execFX55 (x : Reg) (s : State) : Answer := complete (storeBytes 0 ((regsUpTo x).map s.reg) s)

/-- FX65 (R168). -/
def execFX65 (x : Reg) (s : State) : Answer := complete (loadRegs (regsUpTo x) s)

end Sys2Proof.Machine
end

