-- ==== Sys2Proof/Machine/Input.lean ====
section
/-! DEFINITION. Machine/Input.lean: key input and timer instructions, spec 45_timers_input.md R200 to R206. -/

namespace Sys2Proof.Machine

/-- EX9E (R200, R206). -/
def execEX9E (x : Reg) (s : State) : Answer :=
  complete ((s.keyPressed (s.reg x)).2.skipIf (s.keyPressed (s.reg x)).1)

/-- EXA1 (R201, R206). -/
def execEXA1 (x : Reg) (s : State) : Answer :=
  complete ((s.keyPressed (s.reg x)).2.skipIf (!(s.keyPressed (s.reg x)).1))

/-- FX07 (R202). -/
def execFX07 (x : Reg) (s : State) : Answer := complete (s.setReg x s.dt)

/-- FX0A (R205, R98): with no key down it holds; else VX is the lowest pressed key (D11). -/
def execFX0A (x : Reg) (s : State) : Answer :=
  match s.lowestKey with
  | none => hold s
  | some k => complete (s.setReg x (BitVec.ofNat 8 k))

/-- FX15 (R203). -/
def execFX15 (x : Reg) (s : State) : Answer := complete (s.setDelay (s.reg x))

/-- FX18 (R204). -/
def execFX18 (x : Reg) (s : State) : Answer := complete (s.setSound (s.reg x))

end Sys2Proof.Machine
end

