-- ==== Sys2Proof/Machine/Cycle.lean ====
section
/-! DEFINITION. Machine/Cycle.lean: the CPU agent's step (40_execution_cycle.md R90 to R103), the execution of UNKNOWN
words (30_encoding.md R76), the step of whichever agent is scheduled (60_exceptions.md R240), and how a program word is
placed where the next fetch finds it. -/

namespace Sys2Proof.Machine

/-- UNKNOWN (R76): `diag(UNKNOWN_OPCODE, w)`, nothing else changed, and the common advance. -/
def execUnknown (w : Word) (s : State) : Answer := complete (s.diag .unknownOpcode w.toNat)

/-- "PC_UPDATED is cleared, then the word is decoded" and dispatched (R94, R95; log 12). -/
def decodeAndExecute (w : Word) (s : State) : Answer :=
  match decode s.cfg.strictDecode w with
  | .instr i => exec i { s with pcUpdated := false }
  | .reject _ => execUnknown w { s with pcUpdated := false }

/-- One CPU step of a running engine (R90): the idle check on exact sums (R91), the fetch bounds check (R92), fetch, decode,
dispatch, in the order of R103. -/
def cycle (s : State) : Answer :=
  if s.pc.toNat + 2 > s.romEnd then .next { s with run := .idle }
  else if s.pc.toNat + 1 > 0xFFF then .next (s.raiseFatal .fetchOob none)
  else decodeAndExecute s.fetchWord s

/-- The CPU agent: it has a step only when RUN = RUNNING (R90, R34); otherwise nothing changes (log 2). -/
def cpuStep (s : State) : Answer :=
  match s.run with
  | .running => cycle s
  | .idle => .next s
  | .halted _ => .next s
  | .shutdown => .next s

/-- The step of one agent in a block that can take it (R240). -/
def agentStep (s : State) : AgentStep → Answer
  | .cpu => cpuStep s
  | .delayTick => .next s.delayTick
  | .soundTick => .next s.soundTick
  | .host h => .next (s.hostStep h)

/-- The agent that moves next: the head of the schedule, and the CPU where it is empty (log 1). -/
def State.nextAgent (s : State) : AgentStep := s.schedule.headD .cpu

/-- One agent's step of the block (R240). In a block that was torn down only a construction steps (R265, R260). -/
def State.blockStep (s : State) (a : AgentStep) : Answer :=
  if s.live || a.constructs then agentStep s a else .fault .tornDown

/-- The next agent's step, which uses up its place in the schedule. -/
def scheduledStep (s : State) : Answer := State.blockStep { s with schedule := s.schedule.tail } s.nextAgent

/-- The address of the next fetch: PC, or the load address where no word fits at PC. -/
def State.fetchHome (s : State) : Word := if s.pc.toNat + 2 ≤ memSize then s.pc else BitVec.ofNat 16 progBase

/-- The machine with the word `w` loaded where the next step fetches: its two bytes at PC, the ROM image reaching behind
it, a live and running engine, and the CPU the next to move (R90, R91; log 10). -/
def State.placeWord (s : State) (w : Word) : State :=
  putBytes s.fetchHome.toNat [highByte w, lowByte w]
    { s with
      pc := s.fetchHome
      romEnd := max s.romEnd (s.fetchHome.toNat + 2)
      run := .running
      live := true
      schedule := [] }

end Sys2Proof.Machine
end

