-- ==== Sys2Proof/Machine/Step.lean ====
section
/-! DEFINITION. Machine/Step.lean: the machine's step, and the host's way to place an instruction. -/

namespace Sys2Proof.Machine

/-- One step of the block: of the agent that the schedule names, or of the CPU (R240, R90; log 1). -/
def step (s : State) : Host.Outcome State Fault Refusal := scheduledStep s

/-- `s` with the host's table word stored where `step` fetches its next instruction (log 10). -/
def State.withFetchWord (s : State) (nbits w : Nat) : State := s.placeWord (tableWord nbits w)

end Sys2Proof.Machine
end

