-- ==== Sys2Proof/Machine/Executions.lean ====
section
/-! DEFINITION. Machine/Executions.lean: the block's infinite executions and their weak fairness (60_exceptions.md R240, D19).
An execution is any sequence of agents' steps, with no schedule to end it; State holds a finite part of one (log 1, log 3). -/

namespace Sys2Proof.Machine

/-- The four agents (R240). -/
inductive Agent
  | cpu
  | delayTimer
  | soundTimer
  | host
deriving DecidableEq, Repr

/-- The agent that takes a step. -/
def AgentStep.agent : AgentStep → Agent
  | .cpu => .cpu
  | .delayTick => .delayTimer
  | .soundTick => .soundTimer
  | .host _ => .host

/-- A step of the CPU would execute the instruction `i`: the engine is RUNNING, the word at PC passes the checks of R91 and
R92, and it decodes to `i` (R90). -/
abbrev State.Runs (s : State) (i : Instr) : Prop :=
  s.run = .running ∧ s.pc.toNat + 2 ≤ s.romEnd ∧ s.pc.toNat + 1 ≤ 0xFFF ∧
    decode s.cfg.strictDecode s.fetchWord = .instr i

/-- The CPU holds: its step would execute an FX0A, and no key is down (R98, R205). -/
abbrev State.Holds (s : State) : Prop := (∃ x, s.Runs (.opFX0A x)) ∧ ∀ k < 16, s.keyDown k = false

/-- The agent has an enabled step: the CPU when it is RUNNING and does not hold (R90, R98), the DelayTimer exactly when DT != 0
(R231), the SoundTimer exactly when ST != 0 (R232), each in a block that exists (R265). The host may always step. -/
def State.Enabled (s : State) : Agent → Prop
  | .cpu => s.live = true ∧ s.run = .running ∧ ¬ s.Holds
  | .delayTimer => s.live = true ∧ s.dt ≠ 0
  | .soundTimer => s.live = true ∧ s.st ≠ 0
  | .host => True

/-- `u` is the infinite execution in which the agents step as `a` says (R240). An agent that `a` names without an enabled
step changes nothing (log 2). -/
def IsExecution (u : Nat → State) (a : Nat → AgentStep) : Prop := ∀ n, (u n).blockStep (a n) = .next (u (n + 1))

/-- Weak fairness: an agent whose step stays enabled from some point on steps infinitely often. The host is left out, since
it "has no obligation to press a key or to shut down" (R240). -/
def WeaklyFair (u : Nat → State) (a : Nat → AgentStep) : Prop :=
  ∀ g, g ≠ .host → ∀ n, (∀ m, n ≤ m → (u m).Enabled g) → ∀ k, ∃ m, k ≤ m ∧ (a m).agent = g

end Sys2Proof.Machine
end

