-- ==== Sys2Proof/WellFormed.lean ====
section
/-! DEFINITION. WellFormed.lean: the checks the spec makes on what a machine is built from: the parameter constraints of
00_scope.md R7, one check each.

An INSTRUCTION needs no check: every operand is held in a type of exactly its field's width (R71, R72: "a register index
is always 0..15 because it comes from a 4-bit field"), so every term of `Instr` is a well-formed instruction and the round
trip of the encoder ranges over all of them. The ROM image's acceptance (R262) is a step of the machine and stands in
Machine/Reset.lean. -/

namespace Sys2Proof

/-- R7: "DISPLAY_W is a multiple of 8 and at least 8". -/
def Config.widthOk (c : Config) : Bool := decide (c.displayW % 8 = 0) && decide (8 ≤ c.displayW)

/-- R7: "DISPLAY_H is at least 1". -/
def Config.heightOk (c : Config) : Bool := decide (1 ≤ c.displayH)

/-- R7: "IPF is at least 1". -/
def Config.ipfOk (c : Config) : Bool := decide (1 ≤ c.ipf)

/-- R7: "FONT has exactly 80 bytes". -/
def Config.fontOk (c : Config) : Bool := decide (c.font.length = fontSize)

/-- All the parameter constraints of R7. -/
def Config.wf (c : Config) : Bool := c.widthOk && c.heightOk && c.ipfOk && c.fontOk

end Sys2Proof
end

