-- ==== Sys2Proof/Safety.lean ====
section
/-! DEFINITION. Safety.lean: the terms claims use: what a step may change (frames), which states the machine keeps to (the
invariant), the tone's history, the spec's tables of readers and writers, and what counts as a safe run. -/

namespace Sys2Proof.Machine

/-! ## Frames -/

/-- What may differ between two states; everything not listed may not. The program counter and the hidden PC_UPDATED of R35
are always free in a frame. -/
structure MayChange where
  /-- general registers -/
  regs : List Reg := []
  /-- I -/
  i : Bool := false
  /-- SP and STACK -/
  stack : Bool := false
  /-- DT -/
  delay : Bool := false
  /-- ST and TONE -/
  sound : Bool := false
  /-- FB -/
  fb : Bool := false
  /-- RUN -/
  run : Bool := false
  /-- KEY -/
  key : Bool := false
  /-- the diagnostic log -/
  log : Bool := false
  /-- the events on the output ports -/
  ports : Bool := false
  /-- how many free values were drawn -/
  draws : Bool := false
  /-- addresses of memory -/
  mem : List Nat := []

/-- `t` is `s` but for what `c` lists (and PC, PC_UPDATED). Memory is compared byte by byte. -/
structure Frame (c : MayChange) (s t : State) : Prop where
  regs : ∀ r, r ∉ c.regs → t.reg r = s.reg r
  i : c.i = false → t.i = s.i
  sp : c.stack = false → t.sp = s.sp
  stack : c.stack = false → t.stack = s.stack
  dt : c.delay = false → t.dt = s.dt
  st : c.sound = false → t.st = s.st
  tone : c.sound = false → t.tone = s.tone
  fb : c.fb = false → t.fb = s.fb
  run : c.run = false → t.run = s.run
  key : c.key = false → t.key = s.key
  diagLog : c.log = false → t.diagLog = s.diagLog
  outputs : c.ports = false → t.outputs = s.outputs
  draws : c.draws = false → t.draws = s.draws
  mem : ∀ a, a ∉ c.mem → t.byteAt a = s.byteAt a
  romEnd : t.romEnd = s.romEnd
  cfg : t.cfg = s.cfg
  live : t.live = s.live
  schedule : t.schedule = s.schedule

/-! ## The invariant -/

/-- FB is a DISPLAY_W x DISPLAY_H array (R32). -/
abbrev FbShape (c : Config) (fb : List (List Bool)) : Prop :=
  fb.length = c.displayH ∧ ∀ row ∈ fb, row.length = c.displayW

/-- TONE = (ST != 0) (R37, R233). -/
abbrev State.toneFollowsSound (s : State) : Prop := s.tone = decide (s.st ≠ 0)

/-- What holds of every state the machine reaches: the parameters keep R7, memory keeps its canonical form, FB its shape
(R32), TONE follows ST (R37), and ROM_END lies in 0x200..0x1000 (R36). -/
abbrev State.Inv (s : State) : Prop :=
  s.cfg.wf = true ∧ Memory.wf s.cfg s.mem ∧ FbShape s.cfg s.fb ∧ s.toneFollowsSound ∧
    progBase ≤ s.romEnd ∧ s.romEnd ≤ memSize

/-! ## The tone's history -/

/-- The Tone(on) events among the events of the ports (R237). -/
def toneEvents (es : List PortEvent) : List Bool :=
  es.filterMap fun e => match e with
    | .tone on => some on
    | .fbClear => none
    | .fbDrawRow _ _ _ _ => none
    | .diag _ => none
    | .error _ => none

/-- Each event differs from the one before it, the first from `level` (R233: "Two successive emits always differ"). -/
def alternatesFrom (level : Bool) : List Bool → Bool
  | [] => true
  | b :: bs => (b != level) && alternatesFrom b bs

/-! ## Data accesses out of range -/

/-- The byte a memory read of I + k gives an instruction that reads I, I + 1, … in this order: in range the cell; out of range
the free value of its draw, the draws counted from the first address out of range (R52; log 8). -/
def State.dataByte (s : State) (k : Nat) : Byte :=
  if s.dataAddr k < memSize then s.byteAt (s.dataAddr k)
  else Config.freeOobRead (s.draws + (s.dataAddr k - max s.i.toNat memSize))

/-- The diagnostics of an instruction that accesses I + 0 .. I + n - 1 in ascending order (R225, R226, R227). -/
def State.oobEntries (s : State) (code : DiagCode) (n : Nat) : List DiagEntry :=
  if s.cfg.diagEnabled then
    ((List.range n).filter fun k => decide (memSize ≤ s.dataAddr k)).map fun k => ⟨code, s.dataAddr k, s.pc⟩
  else []

/-- How many of the addresses I + 0 .. I + n - 1 are out of range: as many free values an instruction that reads them draws
(R52; log 8). -/
def State.oobCount (s : State) (n : Nat) : Nat := s.dataAddr n - max s.i.toNat memSize

/-- The events of diagnostics on the `diag` port (R226, R239). -/
def diagEvents (log : List DiagEntry) : List PortEvent := log.map .diag

/-- What `diag(code, info)` appends to the log: an entry, or nothing when diagnostics are off (R226). -/
def State.diagOf (s : State) (code : DiagCode) (info : Nat) : List DiagEntry :=
  if s.cfg.diagEnabled then [⟨code, info, s.pc⟩] else []

/-! ## Sprites -/

/-- Sprite row `r`, drawn from (x0, y0), has a set bit that lands on pixel (px, py) (R182, R184). -/
def State.rowHits (s : State) (x0 y0 px py r : Nat) : Bool :=
  decide ((y0 + r) % s.cfg.displayH = py) &&
    (List.range 8).any fun j => spriteBit (s.dataByte r) j && decide ((x0 + j) % s.cfg.displayW = px)

/-- How many of the first `n` sprite rows hit pixel (px, py). -/
def State.hitCount (s : State) (x0 y0 px py n : Nat) : Nat :=
  ((List.range n).filter fun r => s.rowHits x0 y0 px py r).length

/-- Pixel (px, py) has been flipped an odd number of times by the first `r` rows (R183). -/
def State.flipped (s : State) (x0 y0 px py r : Nat) : Bool := decide (s.hitCount x0 y0 px py r % 2 = 1)

/-- Row `r` collides: a set bit of it lands on a pixel that is set after the rows above it (R183, R186). -/
abbrev State.rowCollides (s : State) (x0 y0 r : Nat) : Prop :=
  ∃ px < s.cfg.displayW, ∃ py < s.cfg.displayH,
    s.rowHits x0 y0 px py r = true ∧ (s.pixel px py ^^ s.flipped x0 y0 px py r) = true

/-- The events of sprite row `r`: the diagnostic of its byte, if that is out of range, and the row's `fb_drawRow` (R181, R239). -/
def State.rowEvents (s : State) (x0 y0 r : Nat) : List PortEvent :=
  (if memSize ≤ s.dataAddr r then diagEvents (s.diagOf .memReadOob (s.dataAddr r)) else []) ++
    [.fbDrawRow x0 (y0 + r) (s.dataByte r) (decide (s.rowCollides x0 y0 r))]

/-! ## Readers and writers (R22) -/

/-- The general registers an instruction reads, column "reads" of R22. -/
def readRegs : Instr → List Reg
  | .op00E0 => []
  | .op00EE => []
  | .op1NNN _ => []
  | .op2NNN _ => []
  | .op3XNN x _ => [x]
  | .op4XNN x _ => [x]
  | .op5XY0 x y => [x, y]
  | .op9XY0 x y => [x, y]
  | .op6XNN _ _ => []
  | .op7XNN x _ => [x]
  | .op8XY0 _ y => [y]
  | .op8XY1 x y => [x, y]
  | .op8XY2 x y => [x, y]
  | .op8XY3 x y => [x, y]
  | .op8XY4 x y => [x, y]
  | .op8XY5 x y => [x, y]
  | .op8XY6 x => [x]
  | .op8XY7 x y => [x, y]
  | .op8XYE x => [x]
  | .opANNN _ => []
  | .opBNNN _ => [v0]
  | .opCXNN _ _ => []
  | .opDXYN x y _ => [x, y]
  | .opEX9E x => [x]
  | .opEXA1 x => [x]
  | .opFX07 _ => []
  | .opFX0A _ => []
  | .opFX15 x => [x]
  | .opFX18 x => [x]
  | .opFX1E x => [x]
  | .opFX29 x => [x]
  | .opFX33 x => [x]
  | .opFX55 x => regsUpTo x
  | .opFX65 _ => []

/-- What an instruction writes, column "writes" of R22, together with the state R22 does not list: the stack by CALL and
RETURN (R27), FB by 00E0 and DXYN (R32), RUN by a fatal error (R222), the ports and the log by what reports to them (R225,
R239). `s` gives the mode of BNNN and the addresses stored to. -/
def written (s : State) : Instr → MayChange
  | .op00E0 => { fb := true, ports := true }
  | .op00EE => { stack := true, run := true, ports := true }
  | .op1NNN _ => {}
  | .op2NNN _ => { stack := true, run := true, ports := true }
  | .op3XNN _ _ => {}
  | .op4XNN _ _ => {}
  | .op5XY0 _ _ => {}
  | .op9XY0 _ _ => {}
  | .op6XNN x _ => { regs := [x] }
  | .op7XNN x _ => { regs := [x] }
  | .op8XY0 x _ => { regs := [x] }
  | .op8XY1 x _ => { regs := [x] }
  | .op8XY2 x _ => { regs := [x] }
  | .op8XY3 x _ => { regs := [x] }
  | .op8XY4 x _ => { regs := [x, vF] }
  | .op8XY5 x _ => { regs := [x, vF] }
  | .op8XY6 x => { regs := [x, vF] }
  | .op8XY7 x _ => { regs := [x, vF] }
  | .op8XYE x => { regs := [x, vF] }
  | .opANNN _ => { i := true }
  | .opBNNN _ => { i := decide (s.cfg.bnnnMode = .index) }
  | .opCXNN x _ => { regs := [x], draws := true }
  | .opDXYN _ _ _ => { regs := [vF], fb := true, log := true, ports := true, draws := true }
  | .opEX9E _ => { log := true, ports := true }
  | .opEXA1 _ => { log := true, ports := true }
  | .opFX07 x => { regs := [x] }
  | .opFX0A x => { regs := [x] }
  | .opFX15 _ => { delay := true }
  | .opFX18 _ => { sound := true, ports := true }
  | .opFX1E _ => { i := true }
  | .opFX29 _ => { i := true }
  | .opFX33 _ => { log := true, ports := true, mem := (List.range 3).map s.dataAddr }
  | .opFX55 x => { log := true, ports := true, mem := (List.range (x.val + 1)).map s.dataAddr }
  | .opFX65 x => { regs := regsUpTo x, log := true, ports := true, draws := true }

/-- The instructions that set PC_UPDATED: "00EE, 1NNN, 2NNN, and by BNNN in JUMP mode" (R35). -/
def setsPcUpdated (s : State) : Instr → Bool
  | .op00E0 => false
  | .op00EE => true
  | .op1NNN _ => true
  | .op2NNN _ => true
  | .op3XNN _ _ => false
  | .op4XNN _ _ => false
  | .op5XY0 _ _ => false
  | .op9XY0 _ _ => false
  | .op6XNN _ _ => false
  | .op7XNN _ _ => false
  | .op8XY0 _ _ => false
  | .op8XY1 _ _ => false
  | .op8XY2 _ _ => false
  | .op8XY3 _ _ => false
  | .op8XY4 _ _ => false
  | .op8XY5 _ _ => false
  | .op8XY6 _ => false
  | .op8XY7 _ _ => false
  | .op8XYE _ => false
  | .opANNN _ => false
  | .opBNNN _ => decide (s.cfg.bnnnMode = .jump)
  | .opCXNN _ _ => false
  | .opDXYN _ _ _ => false
  | .opEX9E _ => false
  | .opEXA1 _ => false
  | .opFX07 _ => false
  | .opFX0A _ => false
  | .opFX15 _ => false
  | .opFX18 _ => false
  | .opFX1E _ => false
  | .opFX29 _ => false
  | .opFX33 _ => false
  | .opFX55 _ => false
  | .opFX65 _ => false

/-! ## The packed row XOR (R187) -/

/-- `hi <- b >> s`, "dataShiftedRight" into the first byte, for s = x mod W mod 8 (R187). -/
def packedHi (w x : Nat) (b : Byte) : Byte := b >>> (x % w % 8)

/-- `lo <- trunc_8(b << (8 - s))`, "dataShiftedLeft" into the second byte, for s > 0 only (R187). -/
def packedLo (w x : Nat) (b : Byte) : Byte := if 0 < x % w % 8 then b <<< (8 - x % w % 8) else 0

/-- The byte column `k = (x mod W) div 8` of the first byte (R187). -/
def packedColumn (w x : Nat) : Nat := x % w / 8

/-- The byte column `k2 = (k + 1) mod (W/8)` of the second byte: behind a row's last byte its first (R187). -/
def packedNextColumn (w x : Nat) : Nat := (packedColumn w x + 1) % (w / 8)

/-! ## Diagnostics (R226) -/

/-- The events of the ports but for the `diag` port's. -/
def notDiagEvents (es : List PortEvent) : List PortEvent :=
  es.filter fun e => match e with
    | .diag _ => false
    | .tone _ => true
    | .fbClear => true
    | .fbDrawRow _ _ _ _ => true
    | .error _ => true

/-- The state but for logging: DIAG_ENABLED, the diagnostic log and the `diag` port's events are left out. -/
def State.butLogging (s : State) : State :=
  { s with cfg := { s.cfg with diagEnabled := false }, diagLog := [], outputs := notDiagEvents s.outputs }

/-- Two answers that agree but for logging. -/
def agreeButLogging : Answer → Answer → Prop
  | .next t, .next u => t.butLogging = u.butLogging
  | .fault r, .fault q => r = q
  | .refused r, .refused q => r = q
  | .next _, .fault _ => False
  | .next _, .refused _ => False
  | .fault _, .next _ => False
  | .fault _, .refused _ => False
  | .refused _, .next _ => False
  | .refused _, .fault _ => False

/-! ## Interleavings and safe runs -/

/-- An agent's step that neither constructs nor tears down the VM. -/
def AgentStep.keepsVm : AgentStep → Bool
  | .cpu => true
  | .delayTick => true
  | .soundTick => true
  | .host (.setKey _ _) => true
  | .host .shutdown => true
  | .host (.load _) => false
  | .host .teardown => false

/-- The steps of a list of agents one after another, each taken as the block takes it; it stops where a step does (R240). -/
def runAgents : List AgentStep → State → Answer
  | [], s => .next s
  | a :: as, s =>
    match s.blockStep a with
    | .next t => runAgents as t
    | .fault r => .fault r
    | .refused r => .refused r

/-- The run state is HALTED: a runtime-fatal error stopped execution (R34). -/
def RunState.isHalted : RunState → Bool
  | .halted _ => true
  | .running => false
  | .idle => false
  | .shutdown => false

/-- A run of `n` steps is safe: every step answers a next state, and none of the states is HALTED (R221). -/
def safeRun : Nat → State → Bool
  | 0, s => !s.run.isHalted
  | n + 1, s => !s.run.isHalted &&
    match step s with
    | .next t => safeRun n t
    | .fault _ => false
    | .refused _ => false

end Sys2Proof.Machine
end

