-- ==== Sys2Proof/Certificates/Slice0/Obligations.lean ====
section
/-! DEFINITION. Obligations.lean: the statements for the provers. Each docstring names the rules it formalises. `exec`'s
statements take R13's premise "PC_UPDATED false" where they say where PC goes; `Frame` says what stays unchanged. -/

open Sys2Proof Sys2Proof.Machine

/-! ## Reset -/

/-- 10_state.md R39, for every configuration, with L = 0. The values of I, STACK, KEY, FB, RUN, PC_UPDATED and the log are the
spec's own decision D16 (log 9); that State.reset is construction with no ROM is the model's choice (log 10). -/
def Obligations.ResetStateTable : Prop :=
  State.reset = State.initial Config.default ∧
  ∀ c : Config, let s := State.initial c
    (∀ r, s.reg r = 0) ∧ s.pc = 0x200 ∧ s.sp = 0 ∧ s.dt = 0 ∧ s.st = 0 ∧ s.tone = false ∧
    s.i = 0 ∧ (∀ k, s.stackAt k = 0) ∧ (∀ k, s.keyDown k = false) ∧ (∀ x y, s.pixel x y = false) ∧
    s.run = .running ∧ s.pcUpdated = false ∧ s.romEnd = 0x200 ∧ s.diagLog = [] ∧ s.live = true ∧ s.cfg = c ∧
    (∀ d < 80, s.byteAt (0x50 + d) = c.font.getD d 0) ∧
    (∀ a, a < 0x50 ∨ 0xA0 ≤ a → s.byteAt a = (cellAt a c.memInit).getD 0)

/-- The invariant holds at reset, and after construction under every configuration that keeps R7. -/
def Obligations.InvariantHoldsAtReset : Prop :=
  State.reset.Inv ∧ ∀ c : Config, c.wf = true → (State.initial c).Inv

/-- Every step of every agent keeps the invariant: the parameters (R7), canonical memory, FB's shape (R32), TONE = (ST != 0)
(R37) and the range of ROM_END (R36). -/
def Obligations.StepKeepsInvariant : Prop :=
  ∀ s t : State, s.Inv → step s = .next t → t.Inv

/-! ## Decoding -/

/-- The decoder reads back every encoded instruction, under both decoder modes, from the word and from the bytes in memory
order (R70 to R75, R80). -/
def Obligations.DecodeOfEncode : Prop :=
  ∀ (strict : Bool) (i : Instr),
    decode strict (encode i) = .instr i ∧ decodeBytes strict (encodeBytes i) = .instr i

/-- R80: the instruction a word decodes to stands in a row with (w & mask) = match, and an UNKNOWN word is in no row;
the strict masks under STRICT_DECODE. The strict masks are decision D4. -/
def Obligations.DecoderFollowsOpcodeMap : Prop :=
  ∀ (strict : Bool) (w : Word),
    (∀ i, decode strict w = .instr i → w &&& (rowOf i).maskOf strict = (rowOf i).bits) ∧
    (∀ e, decode strict w = .reject e →
      e = .unknownOpcode w ∧ ∀ i, w &&& (rowOf i).maskOf strict ≠ (rowOf i).bits)

/-- R76's list of the UNKNOWN words of the default decoder. The spec derives the list from R74. -/
def Obligations.UnknownWordsExactly : Prop :=
  ∀ w : Word, decode false w = .reject (.unknownOpcode w) ↔
    (opNibble w = 0x0 ∧ fieldNN w ≠ 0xE0 ∧ fieldNN w ≠ 0xEE) ∨
    (opNibble w = 0x8 ∧ 8 ≤ (fieldN w).toNat ∧ fieldN w ≠ 0xE) ∨
    (opNibble w = 0xE ∧ fieldNN w ≠ 0x9E ∧ fieldNN w ≠ 0xA1) ∨
    (opNibble w = 0xF ∧ fieldNN w ∉ ([0x07, 0x0A, 0x15, 0x18, 0x1E, 0x29, 0x33, 0x55, 0x65] : List Byte))

/-- R75: STRICT_DECODE makes UNKNOWN the family-0 words with a nonzero nibble 2 and the family-5 and family-9 words with
a nonzero nibble 0, and changes nothing else. Decision D4. -/
def Obligations.StrictDecodeRejectsMore : Prop :=
  ∀ w : Word, decode true w =
    if (opNibble w = 0x0 ∧ w.extractLsb' 8 4 ≠ 0) ∨ ((opNibble w = 0x5 ∨ opNibble w = 0x9) ∧ fieldN w ≠ 0)
    then .reject (.unknownOpcode w) else decode false w

/-- R77: the ignored bits: Y of 8XY6 and 8XYE in both modes; nibble 2 of 00E0 and 00EE and nibble 0 of 5XY0 and 9XY0 with
STRICT_DECODE = false. -/
def Obligations.IgnoredNibblesDoNotMatter : Prop :=
  ∀ (strict : Bool) (x y : Reg) (n : BitVec 4),
    decode strict (layoutXYN 0x8 x y 0x6) = .instr (.op8XY6 x) ∧
    decode strict (layoutXYN 0x8 x y 0xE) = .instr (.op8XYE x) ∧
    decode false (layoutXNN 0x0 x 0xE0) = .instr .op00E0 ∧
    decode false (layoutXNN 0x0 x 0xEE) = .instr .op00EE ∧
    decode false (layoutXYN 0x5 x y n) = .instr (.op5XY0 x y) ∧
    decode false (layoutXYN 0x9 x y n) = .instr (.op9XY0 x y)

/-- Words of the spec's own examples (rules R112, R113, R140, R142, R165, R181, R200; 95_test_vectors.md EX5, EX6). -/
def Obligations.ExampleWordsDecode : Prop :=
  decode false 0x2210 = .instr (.op2NNN 0x210) ∧ decode false 0x3005 = .instr (.op3XNN 0 0x05) ∧
  decode false 0x8106 = .instr (.op8XY6 1) ∧ decode false 0x822E = .instr (.op8XYE 2) ∧
  decode false 0xF029 = .instr (.opFX29 0) ∧ decode false 0xD011 = .instr (.opDXYN 0 1 1) ∧
  decode false 0xE59E = .instr (.opEX9E 5) ∧ decode false 0x00EE = .instr .op00EE ∧
  decode false 0x801F = .reject (.unknownOpcode 0x801F) ∧ decode false 0x0123 = .reject (.unknownOpcode 0x0123)

/-! ## The cycle -/

/-- R90, R93, R94, R95: a CPU step of a running engine, with the word at PC inside the ROM image and inside memory, clears
PC_UPDATED and executes the decoded instruction; the word is big-endian from PC and PC + 1 at any alignment. The step uses
up its place in the schedule (log 1). -/
def Obligations.StepRunsDecodedInstruction : Prop :=
  ∀ (s : State) (i : Instr), s.live = true → s.nextAgent = .cpu → s.run = .running →
    s.pc.toNat + 2 ≤ s.romEnd → s.pc.toNat + 1 ≤ 0xFFF → decode s.cfg.strictDecode s.fetchWord = .instr i →
    s.fetchWord.toNat = 256 * (s.byteAt s.pc.toNat).toNat + (s.byteAt (s.pc.toNat + 1)).toNat ∧
    step s = exec i { s with schedule := s.schedule.tail, pcUpdated := false }

/-- R76: an UNKNOWN word records a diagnostic (when enabled), changes nothing else, and PC <- PC + 2. The diagnostic
goes to the log and to the diag port (R226, R239; log 16). -/
def Obligations.StepPassesUnknownWord : Prop :=
  ∀ (s : State) (e : DecodeError), s.live = true → s.nextAgent = .cpu → s.run = .running →
    s.pc.toNat + 2 ≤ s.romEnd → s.pc.toNat + 1 ≤ 0xFFF → decode s.cfg.strictDecode s.fetchWord = .reject e →
    ∃ t, step s = .next t ∧ t.pc = s.pc + 2 ∧ t.pcUpdated = false ∧
      t.diagLog = s.diagLog ++ s.diagOf .unknownOpcode s.fetchWord.toNat ∧
      t.outputs = s.outputs ++ diagEvents (s.diagOf .unknownOpcode s.fetchWord.toNat) ∧
      Frame { log := true, ports := true } { s with schedule := s.schedule.tail } t

/-- R91: before a fetch, with PC + 2 > ROM_END, the engine enters IDLE and no other state changes (the condition's exact
form is the spec's decision D13). -/
def Obligations.EngineIdlesPastRom : Prop :=
  ∀ s : State, s.live = true → s.nextAgent = .cpu → s.run = .running → s.romEnd < s.pc.toNat + 2 →
    step s = .next { s with run := .idle, schedule := s.schedule.tail }

/-- R92: a fetch not wholly inside memory is fatal, and where ROM_END <= 0x1000 no step raises it. The spec derives the
second clause from R91 and R36; what the error record holds is decision D14. -/
def Obligations.FetchOutOfRangeIsFatal : Prop :=
  (∀ s : State, s.live = true → s.nextAgent = .cpu → s.run = .running → s.pc.toNat + 2 ≤ s.romEnd →
    0xFFF < s.pc.toNat + 1 →
    ∃ t, step s = .next t ∧ t.run = .halted .fetchOob ∧ t.pc = s.pc ∧ t.pcUpdated = s.pcUpdated ∧
      t.outputs = s.outputs ++ [.error (.fatal .fetchOob s.pc none)] ∧
      Frame { run := true, ports := true } { s with schedule := s.schedule.tail } t) ∧
  (∀ s t : State, s.romEnd ≤ 0x1000 → s.run ≠ .halted .fetchOob → step s = .next t → t.run ≠ .halted .fetchOob)

/-- R34: IDLE, HALTED and SHUTDOWN are terminal for the CPU: whatever the agents do short of a reset or a teardown, no
instruction executes; only DT, ST, TONE, KEY and the shutdown request's RUN may change. Decisions D30, D35; that a
scheduled agent without a step changes nothing is log 2. -/
def Obligations.StoppedEngineExecutesNothing : Prop :=
  ∀ (as : List AgentStep) (s : State), s.live = true → s.run ≠ .running → (∀ a ∈ as, a.keepsVm = true) →
    ∃ t, runAgents as s = .next t ∧ t.run ≠ .running ∧ t.pc = s.pc ∧
      Frame { delay := true, sound := true, key := true, run := true, ports := true } s t

/-- An engine that is IDLE or SHUTDOWN stays safe for any number of steps while the host neither loads nor tears down.
R34, with the shutdown request of R238 (decision D30). That a scheduled agent without a step answers an unchanged next
state is the model's choice (log 2), and so is the schedule (log 1). -/
def Obligations.StoppedEngineIsSafe : Prop :=
  ∀ (n : Nat) (s : State), s.live = true → s.run = .idle ∨ s.run = .shutdown → (∀ a ∈ s.schedule, a.keepsVm = true) →
    safeRun n s = true

/-- The model's convention for a program to run (log 10): the very next step runs the placed word. -/
def Obligations.PlacedWordRunsNext : Prop :=
  ∀ (s : State) (w : Nat) (i : Instr), Memory.wf s.cfg s.mem →
    decode s.cfg.strictDecode (BitVec.ofNat 16 w) = .instr i →
    step (s.withFetchWord 16 w) = exec i { s.withFetchWord 16 w with pcUpdated := false }

/-! ## Memory -/

/-- R53: a write in range changes its own cell and no other byte, and surfaces nothing; out of range it changes no byte
and records a diagnostic, in the log and on the diag port (log 16); nothing else
changes, PC and PC_UPDATED included. That memory
has a canonical form, which both keep, is the model's (log 6). -/
def Obligations.MemWriteChangesOneCell : Prop :=
  ∀ (s : State) (a : Nat) (v : Byte), Memory.wf s.cfg s.mem →
    let t := s.memWrite a v
    Memory.wf t.cfg t.mem ∧ t.pc = s.pc ∧ t.pcUpdated = s.pcUpdated ∧
    (a < memSize → t.byteAt a = v ∧ Frame { mem := [a] } s t) ∧
    (memSize ≤ a → t.diagLog = s.diagLog ++ s.diagOf .memWriteOob a ∧
      t.outputs = s.outputs ++ diagEvents (s.diagOf .memWriteOob a) ∧ Frame { log := true, ports := true } s t)

/-- Memories in canonical form with the same bytes are the same data (the model's representation, log 6). -/
def Obligations.CanonicalMemoryIsUnique : Prop :=
  ∀ s t : State, t.cfg = s.cfg → Memory.wf s.cfg s.mem → Memory.wf t.cfg t.mem →
    (∀ a < memSize, t.byteAt a = s.byteAt a) → t.mem = s.mem

/-! ## Control flow -/

/-- R111: PC <- NNN. -/
def Obligations.JumpSetsPc : Prop :=
  ∀ (s : State) (nnn : BitVec 12),
    ∃ t, exec (.op1NNN nnn) s = .next t ∧ t.pc.toNat = nnn.toNat ∧ t.pcUpdated = true ∧ Frame {} s t

/-- R112: with SP < 16, PC + 2 is pushed and PC <- NNN; with SP = 16, Fatal(STACK_OVERFLOW) and no state changed. What
the error record holds is decision D14. That the word is read at PC again, also from a state whose word at PC is another
one, is the model's (log 11). -/
def Obligations.CallPushesReturnAddress : Prop :=
  ∀ (s : State) (nnn : BitVec 12),
    (s.sp.val < 16 → ∃ t, exec (.op2NNN nnn) s = .next t ∧ t.pc.toNat = nnn.toNat ∧ t.pcUpdated = true ∧
      t.stackAt s.sp.val = s.pc + 2 ∧ t.sp.val = s.sp.val + 1 ∧
      (∀ k, k ≠ s.sp.val → t.stackAt k = s.stackAt k) ∧ Frame { stack := true } s t) ∧
    (s.sp.val = 16 → ∃ t, exec (.op2NNN nnn) s = .next t ∧ t.run = .halted .stackOverflow ∧ t.pc = s.pc ∧
      t.pcUpdated = s.pcUpdated ∧
      t.outputs = s.outputs ++ [.error (.fatal .stackOverflow s.pc (some s.fetchWord))] ∧
      Frame { run := true, ports := true } s t)

/-- R110: with SP > 0, SP <- SP - 1 and PC is the popped entry as it is; with SP = 0, Fatal(STACK_UNDERFLOW) and no
state changed. What the error record holds is decision D14. That the word is read at PC again, also from a state whose
word at PC is another one, is the model's (log 11). -/
def Obligations.ReturnPopsIntoPc : Prop :=
  ∀ s : State,
    (0 < s.sp.val → ∃ t, exec .op00EE s = .next t ∧ t.sp.val = s.sp.val - 1 ∧ t.pc = s.stackAt (s.sp.val - 1) ∧
      t.pcUpdated = true ∧ (∀ k, t.stackAt k = s.stackAt k) ∧ Frame { stack := true } s t) ∧
    (s.sp.val = 0 → ∃ t, exec .op00EE s = .next t ∧ t.run = .halted .stackUnderflow ∧ t.pc = s.pc ∧
      t.pcUpdated = s.pcUpdated ∧
      t.outputs = s.outputs ++ [.error (.fatal .stackUnderflow s.pc (some s.fetchWord))] ∧
      Frame { run := true, ports := true } s t)

/-- "CALL then RETURN restores PC to the instruction immediately after the CALL" at every depth with room (95 S4): a RETURN
executed anywhere with the stack as the CALL left it. -/
def Obligations.ReturnUndoesCall : Prop :=
  ∀ (s t u : State) (nnn : BitVec 12), s.sp.val < 16 → exec (.op2NNN nnn) s = .next t →
    u.sp = t.sp → u.stack = t.stack →
    ∃ r, exec .op00EE u = .next r ∧ r.pc = s.pc + 2 ∧ r.sp = s.sp ∧ ∀ k < s.sp.val, r.stackAt k = s.stackAt k

/-- R113, R114, R115, R116: each skip ends at PC + 4 where its condition holds and at PC + 2 where it fails. -/
def Obligations.RegisterSkips : Prop :=
  ∀ (s : State) (x y : Reg) (nn : Byte), s.pcUpdated = false →
    (∃ t, exec (.op3XNN x nn) s = .next t ∧ t.pc = (if s.reg x = nn then s.pc + 4 else s.pc + 2) ∧ Frame {} s t) ∧
    (∃ t, exec (.op4XNN x nn) s = .next t ∧ t.pc = (if s.reg x ≠ nn then s.pc + 4 else s.pc + 2) ∧ Frame {} s t) ∧
    (∃ t, exec (.op5XY0 x y) s = .next t ∧ t.pc = (if s.reg x = s.reg y then s.pc + 4 else s.pc + 2) ∧ Frame {} s t) ∧
    (∃ t, exec (.op9XY0 x y) s = .next t ∧ t.pc = (if s.reg x ≠ s.reg y then s.pc + 4 else s.pc + 2) ∧ Frame {} s t)

/-! ## Registers and arithmetic -/

/-- R132 and R134: VX <- NN, VX <- VY. -/
def Obligations.LoadsSetTheRegister : Prop :=
  ∀ (s : State) (x y : Reg) (nn : Byte), s.pcUpdated = false →
    (∃ t, exec (.op6XNN x nn) s = .next t ∧ t.reg x = nn ∧ t.pc = s.pc + 2 ∧ Frame { regs := [x] } s t) ∧
    (∃ t, exec (.op8XY0 x y) s = .next t ∧ t.reg x = s.reg y ∧ t.pc = s.pc + 2 ∧ Frame { regs := [x] } s t)

/-- R133: VX <- (VX + NN) mod 256, and no flag. -/
def Obligations.AddImmediateWraps : Prop :=
  ∀ (s : State) (x : Reg) (nn : Byte), s.pcUpdated = false →
    ∃ t, exec (.op7XNN x nn) s = .next t ∧ (t.reg x).toNat = ((s.reg x).toNat + nn.toNat) % 256 ∧ t.pc = s.pc + 2 ∧
      Frame { regs := [x] } s t

/-- R135, R136, R137 bit by bit. That VF stays unchanged unless X = F is the spec's decision D6. -/
def Obligations.LogicIsBitwise : Prop :=
  ∀ (s : State) (x y : Reg), s.pcUpdated = false →
    (∃ t, exec (.op8XY1 x y) s = .next t ∧
      (∀ k, (t.reg x).getLsbD k = ((s.reg x).getLsbD k || (s.reg y).getLsbD k)) ∧ t.pc = s.pc + 2 ∧
      Frame { regs := [x] } s t) ∧
    (∃ t, exec (.op8XY2 x y) s = .next t ∧
      (∀ k, (t.reg x).getLsbD k = ((s.reg x).getLsbD k && (s.reg y).getLsbD k)) ∧ t.pc = s.pc + 2 ∧
      Frame { regs := [x] } s t) ∧
    (∃ t, exec (.op8XY3 x y) s = .next t ∧
      (∀ k, (t.reg x).getLsbD k = ((s.reg x).getLsbD k ^^ (s.reg y).getLsbD k)) ∧ t.pc = s.pc + 2 ∧
      Frame { regs := [x] } s t)

/-- R138: VX <- (VX + VY) mod 256, then VF <- 1 exactly when VX + VY > 255; with X = F the flag stands. -/
def Obligations.AddSetsCarry : Prop :=
  ∀ (s : State) (x y : Reg), s.pcUpdated = false →
    ∃ t, exec (.op8XY4 x y) s = .next t ∧
      (x ≠ vF → (t.reg x).toNat = ((s.reg x).toNat + (s.reg y).toNat) % 256) ∧
      t.reg vF = (if (s.reg x).toNat + (s.reg y).toNat > 255 then 1 else 0) ∧ t.pc = s.pc + 2 ∧
      Frame { regs := [x, vF] } s t

/-- R139 and R141: the difference mod 256, then VF <- 1 exactly when there is no borrow; with X = F the flag stands. -/
def Obligations.SubtractSetsNotBorrow : Prop :=
  ∀ (s : State) (x y : Reg), s.pcUpdated = false →
    (∃ t, exec (.op8XY5 x y) s = .next t ∧
      (x ≠ vF → ((t.reg x).toNat : Int) = ((s.reg x).toNat - (s.reg y).toNat : Int) % 256) ∧
      t.reg vF = (if (s.reg y).toNat ≤ (s.reg x).toNat then 1 else 0) ∧ t.pc = s.pc + 2 ∧
      Frame { regs := [x, vF] } s t) ∧
    (∃ t, exec (.op8XY7 x y) s = .next t ∧
      (x ≠ vF → ((t.reg x).toNat : Int) = ((s.reg y).toNat - (s.reg x).toNat : Int) % 256) ∧
      t.reg vF = (if (s.reg x).toNat ≤ (s.reg y).toNat then 1 else 0) ∧ t.pc = s.pc + 2 ∧
      Frame { regs := [x, vF] } s t)

/-- R140 and R142 with R130: the shift by one and the bit shifted out; with X = F, the flag under FLAG_LAST, and under
FLAG_FIRST the shift of the flag (the parameter is decision D5). -/
def Obligations.ShiftsInBothFlagOrders : Prop :=
  ∀ (s : State) (x : Reg), s.pcUpdated = false →
    (∃ t, exec (.op8XY6 x) s = .next t ∧ t.pc = s.pc + 2 ∧ Frame { regs := [x, vF] } s t ∧
      (x ≠ vF → (t.reg x).toNat = (s.reg x).toNat / 2 ∧ (t.reg vF).toNat = (s.reg x).toNat % 2) ∧
      (x = vF → s.cfg.shiftFlagOrder = .flagLast → (t.reg vF).toNat = (s.reg x).toNat % 2) ∧
      (x = vF → s.cfg.shiftFlagOrder = .flagFirst → t.reg vF = 0)) ∧
    (∃ t, exec (.op8XYE x) s = .next t ∧ t.pc = s.pc + 2 ∧ Frame { regs := [x, vF] } s t ∧
      (x ≠ vF → (t.reg x).toNat = 2 * (s.reg x).toNat % 256 ∧ (t.reg vF).toNat = (s.reg x).toNat / 128) ∧
      (x = vF → s.cfg.shiftFlagOrder = .flagLast → (t.reg vF).toNat = (s.reg x).toNat / 128) ∧
      (x = vF → s.cfg.shiftFlagOrder = .flagFirst → (t.reg vF).toNat = 2 * ((s.reg x).toNat / 128)))

/-- R143: VX is a free byte masked with NN, fresh per execution (D28; log 7): bits of VX where NN is 0 are 0. -/
def Obligations.RandomIsMasked : Prop :=
  ∀ (s : State) (x : Reg) (nn : Byte), s.pcUpdated = false →
    ∃ t, exec (.opCXNN x nn) s = .next t ∧ t.reg x = Config.freeRand s.draws &&& nn ∧ t.draws = s.draws + 1 ∧
      (∀ k, nn.getLsbD k = false → (t.reg x).getLsbD k = false) ∧ t.pc = s.pc + 2 ∧
      Frame { regs := [x], draws := true } s t

/-! ## Index and memory instructions -/

/-- R160 and R165: I <- NNN; I <- 0x50 + 5 * (VX & 0x0F). -/
def Obligations.LoadIndexAndGlyph : Prop :=
  ∀ (s : State) (x : Reg) (nnn : BitVec 12), s.pcUpdated = false →
    (∃ t, exec (.opANNN nnn) s = .next t ∧ t.i.toNat = nnn.toNat ∧ t.pc = s.pc + 2 ∧ Frame { i := true } s t) ∧
    (∃ t, exec (.opFX29 x) s = .next t ∧ t.i.toNat = 0x50 + 5 * ((s.reg x).toNat % 16) ∧ t.pc = s.pc + 2 ∧
      Frame { i := true } s t)

/-- R161: t = V0 + NNN exactly, to I in INDEX mode and to PC in JUMP mode (the parameter is decision D3). -/
def Obligations.IndexedByV0InBothModes : Prop :=
  ∀ (s : State) (nnn : BitVec 12), s.pcUpdated = false →
    (s.cfg.bnnnMode = .index → ∃ t, exec (.opBNNN nnn) s = .next t ∧ t.i.toNat = (s.reg v0).toNat + nnn.toNat ∧
      t.pc = s.pc + 2 ∧ t.pcUpdated = false ∧ Frame { i := true } s t) ∧
    (s.cfg.bnnnMode = .jump → ∃ t, exec (.opBNNN nnn) s = .next t ∧ t.pc.toNat = (s.reg v0).toNat + nnn.toNat ∧
      t.pcUpdated = true ∧ Frame {} s t)

/-- R164: I <- (I + VX) mod 2^16; VF unchanged and the width 16 are decision D7. -/
def Obligations.AddToIndexWraps : Prop :=
  ∀ (s : State) (x : Reg), s.pcUpdated = false →
    ∃ t, exec (.opFX1E x) s = .next t ∧ t.i.toNat = (s.i.toNat + (s.reg x).toNat) % 65536 ∧ t.pc = s.pc + 2 ∧
      Frame { i := true } s t

/-- R166: the decimal digits at I, I + 1, I + 2 where these are in range, one MEM_WRITE_OOB diagnostic for each that is
not, in ascending order; no other byte changes. That I + k never wraps is decision D8. The diagnostics are surfaced on
the diag port in the same order (R226, R239; log 16). -/
def Obligations.StoresDecimalDigits : Prop :=
  ∀ (s : State) (x : Reg), s.pcUpdated = false → Memory.wf s.cfg s.mem →
    ∃ t, exec (.opFX33 x) s = .next t ∧
      (s.dataAddr 0 < memSize → (t.byteAt (s.dataAddr 0)).toNat = (s.reg x).toNat / 100) ∧
      (s.dataAddr 1 < memSize → (t.byteAt (s.dataAddr 1)).toNat = (s.reg x).toNat / 10 % 10) ∧
      (s.dataAddr 2 < memSize → (t.byteAt (s.dataAddr 2)).toNat = (s.reg x).toNat % 10) ∧
      t.diagLog = s.diagLog ++ s.oobEntries .memWriteOob 3 ∧
      t.outputs = s.outputs ++ diagEvents (s.oobEntries .memWriteOob 3) ∧ t.pc = s.pc + 2 ∧
      Frame { log := true, ports := true, mem := (List.range 3).map s.dataAddr } s t

/-- R167: V0..VX at I + 0 .. I + X where in range, a diagnostic for each byte that is not; no other byte changes, I
stays. That I + k never wraps is decision D8, that I stays decision D33. The diagnostics are surfaced on the diag port
in the same order (R226, R239; log 16). -/
def Obligations.StoresRegisterRange : Prop :=
  ∀ (s : State) (x : Reg), s.pcUpdated = false → Memory.wf s.cfg s.mem →
    ∃ t, exec (.opFX55 x) s = .next t ∧
      (∀ r : Reg, r ≤ x → s.dataAddr r.val < memSize → t.byteAt (s.dataAddr r.val) = s.reg r) ∧
      t.diagLog = s.diagLog ++ s.oobEntries .memWriteOob (x.val + 1) ∧
      t.outputs = s.outputs ++ diagEvents (s.oobEntries .memWriteOob (x.val + 1)) ∧ t.pc = s.pc + 2 ∧
      Frame { log := true, ports := true, mem := (List.range (x.val + 1)).map s.dataAddr } s t

/-- R168: V0..VX from I + 0 .. I + X, a free value and a diagnostic for each byte out of range; nothing else changes, I
stays. Decisions D8 (no wrap), D9 (the free value; log 8), D33 (I stays). The diagnostics are surfaced on the diag port
in the same order (R226, R239; log 16). As many free values are drawn as addresses are out of range, so the draws of two
instructions are different ones. -/
def Obligations.LoadsRegisterRange : Prop :=
  ∀ (s : State) (x : Reg), s.pcUpdated = false →
    ∃ t, exec (.opFX65 x) s = .next t ∧ (∀ r : Reg, r ≤ x → t.reg r = s.dataByte r.val) ∧
      (∀ r : Reg, x < r → t.reg r = s.reg r) ∧ t.draws = s.draws + s.oobCount (x.val + 1) ∧
      t.diagLog = s.diagLog ++ s.oobEntries .memReadOob (x.val + 1) ∧
      t.outputs = s.outputs ++ diagEvents (s.oobEntries .memReadOob (x.val + 1)) ∧ t.pc = s.pc + 2 ∧
      Frame { regs := regsUpTo x, log := true, ports := true, draws := true } s t

/-! ## Display -/

/-- R180 with R185: every pixel 0; VF and everything else unchanged. One fb_clear event goes to its port (R239; log 16). -/
def Obligations.ClearEmptiesDisplay : Prop :=
  ∀ s : State, s.pcUpdated = false →
    ∃ t, exec .op00E0 s = .next t ∧ (∀ x y, t.pixel x y = false) ∧ FbShape s.cfg t.fb ∧ t.pc = s.pc + 2 ∧
      t.outputs = s.outputs ++ [.fbClear] ∧
      Frame { fb := true, ports := true } s t

/-- R181, R183, R184, R186: pixel (px, py) is flipped once for each sprite row with a set bit on it, coordinates
wrapping; VF is 1 exactly when some row hits a pixel that is set after the rows above it; a row out of range is a free
byte with a diagnostic. For every N, N = 0 and N > H included. Decisions D8, D9 (log 8) and D27. Each row surfaces its
diagnostic, if any, and its fb_drawRow with the collision (R239; log 16), and as many free values are drawn as rows are out of
range. -/
def Obligations.DrawFlipsSpritePixels : Prop :=
  ∀ (s : State) (x y : Reg) (n : BitVec 4), s.pcUpdated = false → s.cfg.wf = true → FbShape s.cfg s.fb →
    let x0 := (s.reg x).toNat
    let y0 := (s.reg y).toNat
    ∃ t, exec (.opDXYN x y n) s = .next t ∧
      (∀ px < s.cfg.displayW, ∀ py < s.cfg.displayH,
        t.pixel px py = (s.pixel px py ^^ s.flipped x0 y0 px py n.toNat)) ∧
      (t.reg vF = 0 ∨ t.reg vF = 1) ∧ (t.reg vF = 1 ↔ ∃ r < n.toNat, s.rowCollides x0 y0 r) ∧
      t.diagLog = s.diagLog ++ s.oobEntries .memReadOob n.toNat ∧
      t.outputs = s.outputs ++ (List.range n.toNat).flatMap (s.rowEvents x0 y0) ∧
      t.draws = s.draws + s.oobCount n.toNat ∧ t.pc = s.pc + 2 ∧
      Frame { regs := [vF], fb := true, log := true, ports := true, draws := true } s t

/-- R188: a second draw of the same bytes at the same place restores FB; with N <= H its VF is 1 exactly when a set
sprite bit lands on a pixel that was 0 before the first draw; on a clear display the first draw's VF is 0. "With no
change to FB, I or the sprite bytes in between": `u` is any state that keeps them, and the coordinates, of the first
draw's end. The spec derives it from R183 and R186. -/
def Obligations.DrawTwiceRestoresDisplay : Prop :=
  ∀ (s t u : State) (x y : Reg) (n : BitVec 4), s.cfg.wf = true → FbShape s.cfg s.fb →
    s.dataAddr n.toNat ≤ memSize → exec (.opDXYN x y n) s = .next t →
    u.fb = t.fb → u.cfg = s.cfg → u.i = s.i → u.reg x = s.reg x → u.reg y = s.reg y →
    (∀ k < n.toNat, u.byteAt (s.dataAddr k) = s.byteAt (s.dataAddr k)) →
    ∃ v, exec (.opDXYN x y n) u = .next v ∧ v.fb = s.fb ∧
      (n.toNat ≤ s.cfg.displayH →
        (v.reg vF = 1 ↔ ∃ r < n.toNat, ∃ px < s.cfg.displayW, ∃ py < s.cfg.displayH,
          s.rowHits (s.reg x).toNat (s.reg y).toNat px py r = true ∧ s.pixel px py = false) ∧
        ((∀ px py, s.pixel px py = false) → t.reg vF = 0))

/-- R187: the framebuffer port is W * H / 8 bytes, and pixel (x, y) is bit 7 - (x mod 8) of byte y * (W/8) + (x div 8);
on the packed bytes, `fb_drawRow` is the XOR of hi and lo into two adjacent bytes of row y mod H, and its collision is
(byte & hi) != 0 or (next byte & lo) != 0. The row-major byte order is decision D26. -/
def Obligations.PackedRowXorIsDrawRow : Prop :=
  (∀ s : State, s.cfg.wf = true →
    s.packedFramebuffer.length = s.cfg.displayW * s.cfg.displayH / 8 ∧
    ∀ x < s.cfg.displayW, ∀ y < s.cfg.displayH,
      (s.packedFramebuffer[y * (s.cfg.displayW / 8) + x / 8]?).map (fun b => b.getLsbD (7 - x % 8)) = some (s.pixel x y)) ∧
  (∀ (c : Config) (fb : List (List Bool)) (x y : Nat) (b : Byte), c.wf = true → FbShape c fb →
    let w := c.displayW
    let row := y % c.displayH
    let drawn := drawRow w c.displayH x y b fb
    drawn.1 = (decide (packedByteOf fb row (packedColumn w x) &&& packedHi w x b ≠ 0) ||
      decide (packedByteOf fb row (packedNextColumn w x) &&& packedLo w x b ≠ 0)) ∧
    ∀ r < c.displayH, ∀ k < w / 8,
      packedByteOf drawn.2 r k = packedByteOf fb r k ^^^
        (if r = row ∧ k = packedColumn w x then packedHi w x b else 0) ^^^
        (if r = row ∧ k = packedNextColumn w x then packedLo w x b else 0))

/-! ## Keys and timers -/

/-- R200, R201, R206: the skip on the key VX names; for VX > 0xF the key reads as not pressed, with a KEY_RANGE
diagnostic (decision D10). The diagnostic goes to the log and to the diag port (R226, R239; log 16). -/
def Obligations.KeySkips : Prop :=
  ∀ (s : State) (x : Reg), s.pcUpdated = false →
    let v := (s.reg x).toNat
    let down := decide (v ≤ 0xF) && s.keyDown v
    let new := if 0xF < v then s.diagOf .keyRange v else []
    (∃ t, exec (.opEX9E x) s = .next t ∧ t.pc = (if down then s.pc + 4 else s.pc + 2) ∧ t.diagLog = s.diagLog ++ new ∧
      t.outputs = s.outputs ++ diagEvents new ∧ Frame { log := true, ports := true } s t) ∧
    (∃ t, exec (.opEXA1 x) s = .next t ∧ t.pc = (if down then s.pc + 2 else s.pc + 4) ∧ t.diagLog = s.diagLog ++ new ∧
      t.outputs = s.outputs ++ diagEvents new ∧ Frame { log := true, ports := true } s t)

/-- R202 and R203: VX <- DT; DT <- VX. -/
def Obligations.DelayTimerReadAndWrite : Prop :=
  ∀ (s : State) (x : Reg), s.pcUpdated = false →
    (∃ t, exec (.opFX07 x) s = .next t ∧ t.reg x = s.dt ∧ t.pc = s.pc + 2 ∧ Frame { regs := [x] } s t) ∧
    (∃ t, exec (.opFX15 x) s = .next t ∧ t.dt = s.reg x ∧ t.pc = s.pc + 2 ∧ Frame { delay := true } s t)

/-- R204: ST <- VX; TONE and Tone(on) only where ST leaves or reaches 0. -/
def Obligations.SoundTimerWrite : Prop :=
  ∀ (s : State) (x : Reg), s.pcUpdated = false →
    ∃ t, exec (.opFX18 x) s = .next t ∧ t.st = s.reg x ∧ t.pc = s.pc + 2 ∧
      (s.st = 0 ∧ s.reg x ≠ 0 → t.tone = true ∧ t.outputs = s.outputs ++ [.tone true]) ∧
      (s.st ≠ 0 ∧ s.reg x = 0 → t.tone = false ∧ t.outputs = s.outputs ++ [.tone false]) ∧
      (s.st = 0 ∧ s.reg x = 0 ∨ s.st ≠ 0 ∧ s.reg x ≠ 0 → t.tone = s.tone ∧ t.outputs = s.outputs) ∧
      Frame { sound := true, ports := true } s t

/-- R205 and R98: with a key down VX is the lowest-numbered one; with none the instruction holds and changes nothing at all.
Level sense and lowest key are decision D11. -/
def Obligations.WaitForKey : Prop :=
  ∀ (s : State) (x : Reg), s.pcUpdated = false →
    (∀ k < 16, s.keyDown k = true → (∀ j < k, s.keyDown j = false) →
      ∃ t, exec (.opFX0A x) s = .next t ∧ (t.reg x).toNat = k ∧ t.pc = s.pc + 2 ∧ Frame { regs := [x] } s t) ∧
    ((∀ k < 16, s.keyDown k = false) → exec (.opFX0A x) s = .next s)

/-! ## The other agents -/

/-- R232: the sound tick, in every run state: ST <- ST - 1 where ST != 0, and at the transition to 0 the tone goes off
with one event; with ST = 0 there is no step. That it ticks in every run state is decision D35; a scheduled agent
without a step is log 2. -/
def Obligations.SoundTick : Prop :=
  ∀ s : State, s.live = true → s.nextAgent = .soundTick →
    ∃ t, step s = .next t ∧ t.st.toNat = s.st.toNat - 1 ∧ t.pc = s.pc ∧ t.pcUpdated = s.pcUpdated ∧
      (s.st = 1 → t.tone = false ∧ t.outputs = s.outputs ++ [.tone false]) ∧
      (s.st ≠ 1 → t.tone = s.tone ∧ t.outputs = s.outputs) ∧
      Frame { sound := true, ports := true } { s with schedule := s.schedule.tail } t

/-- R231: the delay tick, in every run state: DT <- DT - 1 where DT != 0, never through 0, and nothing else (decisions D19,
D35). -/
def Obligations.DelayTick : Prop :=
  ∀ s : State, s.live = true → s.nextAgent = .delayTick →
    ∃ t, step s = .next t ∧ t.dt.toNat = s.dt.toNat - 1 ∧ t.pc = s.pc ∧ t.pcUpdated = s.pcUpdated ∧
      Frame { delay := true } { s with schedule := s.schedule.tail } t

/-- R236 and R238: a key update changes that key alone; a shutdown request takes RUNNING and IDLE to SHUTDOWN, changes nothing
in HALTED and SHUTDOWN, and nothing else (decisions D22, D30). -/
def Obligations.HostKeysAndShutdown : Prop :=
  ∀ s : State, s.live = true →
    (∀ k p, s.nextAgent = .host (.setKey k p) →
      ∃ t, step s = .next t ∧ t.keyDown k.val = p ∧ (∀ j, j ≠ k.val → t.keyDown j = s.keyDown j) ∧
        t.pc = s.pc ∧ t.pcUpdated = s.pcUpdated ∧
        Frame { key := true } { s with schedule := s.schedule.tail } t) ∧
    (s.nextAgent = .host .shutdown →
      ∃ t, step s = .next t ∧ (s.run = .running ∨ s.run = .idle → t.run = .shutdown) ∧
        (∀ c, s.run = .halted c → t.run = s.run) ∧ (s.run = .shutdown → t.run = s.run) ∧
        t.pc = s.pc ∧ t.pcUpdated = s.pcUpdated ∧
        Frame { run := true } { s with schedule := s.schedule.tail } t)

/-- R261 and R263: a reset with an accepted ROM, on a live or a torn-down block: registers, stack, timers, keys and
display cleared, PC at 0x200, ROM_END behind the image, memory the font, the image and MEM_INIT, Tone(false) if the tone
was on. The cleared values of I, STACK, KEY, FB, RUN and PC_UPDATED are decision D16; what a reload keeps is D21 and log
13. That a reload keeps the configuration is R33 with log 22; that a torn-down block is constructed again from the
values it kept, so that its tone is turned off, is log 14 and log 15. -/
def Obligations.ResetWithRom : Prop :=
  ∀ (s : State) (rom : List Byte), s.nextAgent = .host (.load (.image rom)) → rom.length ≤ 3584 →
    (s.cfg.romIntegrityCheck = true → rom.length % 2 = 0) →
    ∃ t, step s = .next t ∧ (∀ r, t.reg r = 0) ∧ t.i = 0 ∧ t.pc = 0x200 ∧ t.sp = 0 ∧ (∀ k, t.stackAt k = 0) ∧
      t.dt = 0 ∧ t.st = 0 ∧ t.tone = false ∧ (∀ k, t.keyDown k = false) ∧ (∀ x y, t.pixel x y = false) ∧
      t.pcUpdated = false ∧ t.run = .running ∧ t.live = true ∧ t.romEnd = 0x200 + rom.length ∧
      t.cfg = s.cfg ∧ t.diagLog = [] ∧
      t.outputs = (if s.tone then s.outputs ++ [.tone false] else s.outputs) ∧
      (∀ k < 80, t.byteAt (0x50 + k) = s.cfg.font.getD k 0) ∧
      (∀ k < rom.length, t.byteAt (0x200 + k) = rom.getD k 0) ∧
      (∀ a, a < 0x50 ∨ (0xA0 ≤ a ∧ a < 0x200) ∨ 0x200 + rom.length ≤ a →
        t.byteAt a = (cellAt a s.cfg.memInit).getD 0)

/-- R262 and R224: the checks in their order (decision D31); a refused ROM surfaces its error once and leaves no VM (that
nothing else of the old state changes is the model's choice, log 14). -/
def Obligations.RefusedRomLeavesNoVm : Prop :=
  ∀ (s : State) (rom : RomSource) (e : ConstructionError), s.nextAgent = .host (.load rom) →
    (rom = .unreadable ∧ e = .romUnreadable ∨
      ∃ bytes, rom = .image bytes ∧
        (3584 < bytes.length ∧ e = .romTooLarge ∨
          bytes.length ≤ 3584 ∧ s.cfg.romIntegrityCheck = true ∧ bytes.length % 2 = 1 ∧ e = .romOddLength)) →
    step s = .next { s with
      live := false, outputs := s.outputs ++ [.error (.construction e)], schedule := s.schedule.tail }

/-- R265: teardown stops every agent: after it a step is the fault tornDown, but for a construction (log 14, log 15). -/
def Obligations.TeardownStopsEveryAgent : Prop :=
  (∀ s : State, s.live = true → s.nextAgent = .host .teardown →
    step s = .next { s with live := false, schedule := s.schedule.tail }) ∧
  (∀ s : State, s.live = false → (∀ rom, s.nextAgent ≠ .host (.load rom)) → step s = .fault .tornDown)

/-! ## Rules of the whole machine -/

/-- R233: TONE = (ST != 0) after every step, a Tone event exactly when TONE changes, so that two successive events
always differ; TONE changes only by FX18, and to off also by the sound tick and a reset. The spec derives the rule from
the transition rule (decision D20). -/
def Obligations.ToneEventsExactlyOnChange : Prop :=
  ∀ s t : State, s.toneFollowsSound → alternatesFrom false (toneEvents s.outputs) = true →
    (toneEvents s.outputs).getLastD false = s.tone → step s = .next t →
    t.toneFollowsSound ∧
    toneEvents t.outputs = toneEvents s.outputs ++ (if t.tone = s.tone then [] else [t.tone]) ∧
    alternatesFrom false (toneEvents t.outputs) = true ∧ (toneEvents t.outputs).getLastD false = t.tone ∧
    (t.tone ≠ s.tone →
      (s.nextAgent = .cpu ∧ ∃ x, decode s.cfg.strictDecode s.fetchWord = .instr (.opFX18 x)) ∨
      (t.tone = false ∧ (s.nextAgent = .soundTick ∨ ∃ rom, s.nextAgent = .host (.load rom))))

/-- Every instruction from every state answers a next state (R229: "every instruction is legal"), and so does every step
but of a block that was torn down (R265; log 14). A fatal error of R221 and R222 stops the engine and not the machine:
that it is a next state, with RUN = HALTED, is log 11, and that a stopped engine's scheduled step answers an unchanged
next state is log 2. One mode and no trap is decision D24. -/
def Obligations.NothingStopsButATornDownBlock : Prop :=
  (∀ (i : Instr) (s : State), ∃ t, exec i s = .next t) ∧
  (∀ s : State, (∃ t, step s = .next t) ∨
    (step s = .fault .tornDown ∧ s.live = false ∧ ∀ rom, s.nextAgent ≠ .host (.load rom)))

/-- R21, R22 (writers), R27, R29, R31, R32: an instruction changes no state but what the spec lists for it. PC_UPDATED
is left to 00EE, 1NNN, 2NNN and BNNN in JUMP mode (R35). -/
def Obligations.InstructionWritesOnlyWhatIsListed : Prop :=
  ∀ (i : Instr) (s t : State), exec i s = .next t →
    Frame (written s i) s t ∧ (setsPcUpdated s i = false → t.pcUpdated = s.pcUpdated)

/-- R22 (readers): a register that an instruction neither reads nor writes has no influence on it and comes through it. -/
def Obligations.UnreadRegisterHasNoInfluence : Prop :=
  ∀ (i : Instr) (s : State) (r : Reg) (b : Byte), r ∉ readRegs i → r ∉ (written s i).regs →
    ∃ t, exec i s = .next t ∧ exec i (s.setReg r b) = .next (t.setReg r b)

/-- R51: memory changes only by FX33, FX55 and a reset. -/
def Obligations.OnlyStoresAndResetChangeMemory : Prop :=
  ∀ (s t : State) (a : Nat), step s = .next t → t.byteAt a ≠ s.byteAt a →
    (∃ rom, s.nextAgent = .host (.load rom)) ∨
    (s.nextAgent = .cpu ∧ s.run = .running ∧ ∃ x, decode s.cfg.strictDecode s.fetchWord = .instr (.opFX33 x) ∨
      decode s.cfg.strictDecode s.fetchWord = .instr (.opFX55 x))

/-- R33: the configuration is fixed at construction and no instruction writes it; R36: only a reset changes ROM_END; R31: KEY
changes only by the host. That a load, a reload of a live VM and the construction of a torn-down block alike, keeps the
configuration too is the model's reading (log 22; log 14 for the torn-down block). -/
def Obligations.ConfigurationRomEndAndKeysAreTheHosts : Prop :=
  ∀ s t : State, step s = .next t → t.cfg = s.cfg ∧
    ((∀ rom, s.nextAgent ≠ .host (.load rom)) → t.romEnd = s.romEnd) ∧
    ((∀ h, s.nextAgent ≠ .host h) → t.key = s.key)

/-- R268, R271: DT rises in no step but a CPU step that runs FX15; and in every weakly fair execution (R240, decision
D19; log 3) in which the VM exists from point n on and no CPU step from there on runs FX15, DT never rises, so that
every later value is at most the one at n, and at last becomes 0 and stays 0. A scheduled agent without a step is log 2.
-/
def Obligations.DelayTimerNeverRisesWithoutFX15 : Prop :=
  (∀ s t : State, step s = .next t →
    (∀ x, s.nextAgent = .cpu → ¬ s.Runs (.opFX15 x)) → t.dt.toNat ≤ s.dt.toNat) ∧
  (∀ (u : Nat → State) (a : Nat → AgentStep) (n : Nat), IsExecution u a → WeaklyFair u a →
    (∀ m, n ≤ m → (u m).live = true ∧ ∀ x, a m = .cpu → ¬ (u m).Runs (.opFX15 x)) →
    (∀ m k, n ≤ m → m ≤ k → (u k).dt.toNat ≤ (u m).dt.toNat) ∧ ∃ k, n ≤ k ∧ ∀ m, k ≤ m → (u m).dt = 0)

/-- R221, R222, R100: from an invariant state, a step halts a running engine only by CALL on a full stack or RETURN on an
empty one, and is precise: RUN and one error record change, PC holds the faulting address (decision D14). -/
def Obligations.OnlyStackErrorsHalt : Prop :=
  ∀ (s t : State) (code : FatalCode), s.Inv → s.run.isHalted = false → step s = .next t → t.run = .halted code →
    s.nextAgent = .cpu ∧
    ((code = .stackOverflow ∧ s.sp.val = 16 ∧
        ∃ nnn, decode s.cfg.strictDecode s.fetchWord = .instr (.op2NNN nnn)) ∨
      (code = .stackUnderflow ∧ s.sp.val = 0 ∧ decode s.cfg.strictDecode s.fetchWord = .instr .op00EE)) ∧
    t.pc = s.pc ∧ t.outputs = s.outputs ++ [.error (.fatal code s.pc (some s.fetchWord))] ∧
    Frame { run := true, ports := true } { s with schedule := s.schedule.tail } t

/-- R226: DIAG_ENABLED changes logging only, never behaviour: from two states that agree but for DIAG_ENABLED, the
diagnostic log and the diag port's events, the same instruction, and the same step of the machine, UNKNOWN words (R76)
and resets included, end in answers that agree but for these; and with the flag off an instruction or a CPU step records
nothing. -/
def Obligations.DiagnosticsChangeLoggingOnly : Prop :=
  (∀ s t : State, s.butLogging = t.butLogging →
    (∀ i, agreeButLogging (exec i s) (exec i t)) ∧ agreeButLogging (step s) (step t)) ∧
  (∀ s t : State, s.cfg.diagEnabled = false → (∃ i, exec i s = .next t) ∨ cpuStep s = .next t →
    t.diagLog = s.diagLog ∧ ∀ e, .diag e ∈ t.outputs → .diag e ∈ s.outputs)

/-- R240, in the model's terms (log 1, decision D19): every finite interleaving of the four agents is the run of the
machine whose schedule lists it; every infinite execution is, up to each point, such a run; and of a weakly fair one
(log 3): from a point on at which the VM exists, ST that no CPU step writes by FX18 becomes 0 and stays 0, and a CPU
that stays RUNNING and does not hold keeps stepping. -/
def Obligations.EveryInterleavingIsARun : Prop :=
  (∀ (as rest : List AgentStep) (s : State),
    Sys2Proof.core.run as.length { s with schedule := as ++ rest } = runAgents as { s with schedule := rest }) ∧
  (∀ (u : Nat → State) (a : Nat → AgentStep), IsExecution u a →
    (∀ n, Sys2Proof.core.run n { u 0 with schedule := (List.range n).map a ++ (u 0).schedule } = .next (u n)) ∧
    (WeaklyFair u a → ∀ n, (∀ m, n ≤ m → (u m).live = true) →
      ((∀ m x, n ≤ m → a m = .cpu → ¬ (u m).Runs (.opFX18 x)) → ∃ k, n ≤ k ∧ ∀ m, k ≤ m → (u m).st = 0) ∧
      ((∀ m, n ≤ m → (u m).run = .running ∧ ¬ (u m).Holds) → ∀ k, ∃ m, k ≤ m ∧ a m = .cpu)))
end

