-- ==== Sys2Proof/Laws/State.lean ====
section
/-! SUPPORT. Laws/State.lean: for each update of the state, what it does to each field: true by `rfl`, so that no later proof
unfolds a record update. -/

namespace Sys2Proof.Machine

variable (s : State)

/-! ### setReg -/

@[simp] theorem State.setReg_v (r : Reg) (b : Byte) : (s.setReg r b).v = s.v.set r.val b := rfl
@[simp] theorem State.setReg_i (r : Reg) (b : Byte) : (s.setReg r b).i = s.i := rfl
@[simp] theorem State.setReg_pc (r : Reg) (b : Byte) : (s.setReg r b).pc = s.pc := rfl
@[simp] theorem State.setReg_sp (r : Reg) (b : Byte) : (s.setReg r b).sp = s.sp := rfl
@[simp] theorem State.setReg_stack (r : Reg) (b : Byte) : (s.setReg r b).stack = s.stack := rfl
@[simp] theorem State.setReg_dt (r : Reg) (b : Byte) : (s.setReg r b).dt = s.dt := rfl
@[simp] theorem State.setReg_st (r : Reg) (b : Byte) : (s.setReg r b).st = s.st := rfl
@[simp] theorem State.setReg_tone (r : Reg) (b : Byte) : (s.setReg r b).tone = s.tone := rfl
@[simp] theorem State.setReg_key (r : Reg) (b : Byte) : (s.setReg r b).key = s.key := rfl
@[simp] theorem State.setReg_fb (r : Reg) (b : Byte) : (s.setReg r b).fb = s.fb := rfl
@[simp] theorem State.setReg_run (r : Reg) (b : Byte) : (s.setReg r b).run = s.run := rfl
@[simp] theorem State.setReg_pcUpdated (r : Reg) (b : Byte) : (s.setReg r b).pcUpdated = s.pcUpdated := rfl
@[simp] theorem State.setReg_romEnd (r : Reg) (b : Byte) : (s.setReg r b).romEnd = s.romEnd := rfl
@[simp] theorem State.setReg_mem (r : Reg) (b : Byte) : (s.setReg r b).mem = s.mem := rfl
@[simp] theorem State.setReg_cfg (r : Reg) (b : Byte) : (s.setReg r b).cfg = s.cfg := rfl
@[simp] theorem State.setReg_live (r : Reg) (b : Byte) : (s.setReg r b).live = s.live := rfl
@[simp] theorem State.setReg_diagLog (r : Reg) (b : Byte) : (s.setReg r b).diagLog = s.diagLog := rfl
@[simp] theorem State.setReg_outputs (r : Reg) (b : Byte) : (s.setReg r b).outputs = s.outputs := rfl
@[simp] theorem State.setReg_draws (r : Reg) (b : Byte) : (s.setReg r b).draws = s.draws := rfl
@[simp] theorem State.setReg_schedule (r : Reg) (b : Byte) : (s.setReg r b).schedule = s.schedule := rfl

/-! ### setI -/

@[simp] theorem State.setI_v (w : Word) : (s.setI w).v = s.v := rfl
@[simp] theorem State.setI_i (w : Word) : (s.setI w).i = w := rfl
@[simp] theorem State.setI_pc (w : Word) : (s.setI w).pc = s.pc := rfl
@[simp] theorem State.setI_sp (w : Word) : (s.setI w).sp = s.sp := rfl
@[simp] theorem State.setI_stack (w : Word) : (s.setI w).stack = s.stack := rfl
@[simp] theorem State.setI_dt (w : Word) : (s.setI w).dt = s.dt := rfl
@[simp] theorem State.setI_st (w : Word) : (s.setI w).st = s.st := rfl
@[simp] theorem State.setI_tone (w : Word) : (s.setI w).tone = s.tone := rfl
@[simp] theorem State.setI_key (w : Word) : (s.setI w).key = s.key := rfl
@[simp] theorem State.setI_fb (w : Word) : (s.setI w).fb = s.fb := rfl
@[simp] theorem State.setI_run (w : Word) : (s.setI w).run = s.run := rfl
@[simp] theorem State.setI_pcUpdated (w : Word) : (s.setI w).pcUpdated = s.pcUpdated := rfl
@[simp] theorem State.setI_romEnd (w : Word) : (s.setI w).romEnd = s.romEnd := rfl
@[simp] theorem State.setI_mem (w : Word) : (s.setI w).mem = s.mem := rfl
@[simp] theorem State.setI_cfg (w : Word) : (s.setI w).cfg = s.cfg := rfl
@[simp] theorem State.setI_live (w : Word) : (s.setI w).live = s.live := rfl
@[simp] theorem State.setI_diagLog (w : Word) : (s.setI w).diagLog = s.diagLog := rfl
@[simp] theorem State.setI_outputs (w : Word) : (s.setI w).outputs = s.outputs := rfl
@[simp] theorem State.setI_draws (w : Word) : (s.setI w).draws = s.draws := rfl
@[simp] theorem State.setI_schedule (w : Word) : (s.setI w).schedule = s.schedule := rfl

/-! ### setDelay -/

@[simp] theorem State.setDelay_v (b : Byte) : (s.setDelay b).v = s.v := rfl
@[simp] theorem State.setDelay_i (b : Byte) : (s.setDelay b).i = s.i := rfl
@[simp] theorem State.setDelay_pc (b : Byte) : (s.setDelay b).pc = s.pc := rfl
@[simp] theorem State.setDelay_sp (b : Byte) : (s.setDelay b).sp = s.sp := rfl
@[simp] theorem State.setDelay_stack (b : Byte) : (s.setDelay b).stack = s.stack := rfl
@[simp] theorem State.setDelay_dt (b : Byte) : (s.setDelay b).dt = b := rfl
@[simp] theorem State.setDelay_st (b : Byte) : (s.setDelay b).st = s.st := rfl
@[simp] theorem State.setDelay_tone (b : Byte) : (s.setDelay b).tone = s.tone := rfl
@[simp] theorem State.setDelay_key (b : Byte) : (s.setDelay b).key = s.key := rfl
@[simp] theorem State.setDelay_fb (b : Byte) : (s.setDelay b).fb = s.fb := rfl
@[simp] theorem State.setDelay_run (b : Byte) : (s.setDelay b).run = s.run := rfl
@[simp] theorem State.setDelay_pcUpdated (b : Byte) : (s.setDelay b).pcUpdated = s.pcUpdated := rfl
@[simp] theorem State.setDelay_romEnd (b : Byte) : (s.setDelay b).romEnd = s.romEnd := rfl
@[simp] theorem State.setDelay_mem (b : Byte) : (s.setDelay b).mem = s.mem := rfl
@[simp] theorem State.setDelay_cfg (b : Byte) : (s.setDelay b).cfg = s.cfg := rfl
@[simp] theorem State.setDelay_live (b : Byte) : (s.setDelay b).live = s.live := rfl
@[simp] theorem State.setDelay_diagLog (b : Byte) : (s.setDelay b).diagLog = s.diagLog := rfl
@[simp] theorem State.setDelay_outputs (b : Byte) : (s.setDelay b).outputs = s.outputs := rfl
@[simp] theorem State.setDelay_draws (b : Byte) : (s.setDelay b).draws = s.draws := rfl
@[simp] theorem State.setDelay_schedule (b : Byte) : (s.setDelay b).schedule = s.schedule := rfl

/-! ### emit -/

@[simp] theorem State.emit_v (e : PortEvent) : (s.emit e).v = s.v := rfl
@[simp] theorem State.emit_i (e : PortEvent) : (s.emit e).i = s.i := rfl
@[simp] theorem State.emit_pc (e : PortEvent) : (s.emit e).pc = s.pc := rfl
@[simp] theorem State.emit_sp (e : PortEvent) : (s.emit e).sp = s.sp := rfl
@[simp] theorem State.emit_stack (e : PortEvent) : (s.emit e).stack = s.stack := rfl
@[simp] theorem State.emit_dt (e : PortEvent) : (s.emit e).dt = s.dt := rfl
@[simp] theorem State.emit_st (e : PortEvent) : (s.emit e).st = s.st := rfl
@[simp] theorem State.emit_tone (e : PortEvent) : (s.emit e).tone = s.tone := rfl
@[simp] theorem State.emit_key (e : PortEvent) : (s.emit e).key = s.key := rfl
@[simp] theorem State.emit_fb (e : PortEvent) : (s.emit e).fb = s.fb := rfl
@[simp] theorem State.emit_run (e : PortEvent) : (s.emit e).run = s.run := rfl
@[simp] theorem State.emit_pcUpdated (e : PortEvent) : (s.emit e).pcUpdated = s.pcUpdated := rfl
@[simp] theorem State.emit_romEnd (e : PortEvent) : (s.emit e).romEnd = s.romEnd := rfl
@[simp] theorem State.emit_mem (e : PortEvent) : (s.emit e).mem = s.mem := rfl
@[simp] theorem State.emit_cfg (e : PortEvent) : (s.emit e).cfg = s.cfg := rfl
@[simp] theorem State.emit_live (e : PortEvent) : (s.emit e).live = s.live := rfl
@[simp] theorem State.emit_diagLog (e : PortEvent) : (s.emit e).diagLog = s.diagLog := rfl
@[simp] theorem State.emit_outputs (e : PortEvent) : (s.emit e).outputs = s.outputs ++ [e] := rfl
@[simp] theorem State.emit_draws (e : PortEvent) : (s.emit e).draws = s.draws := rfl
@[simp] theorem State.emit_schedule (e : PortEvent) : (s.emit e).schedule = s.schedule := rfl

/-! ### diag -/

@[simp] theorem State.diag_v (c : DiagCode) (n : Nat) : (s.diag c n).v = s.v := rfl
@[simp] theorem State.diag_i (c : DiagCode) (n : Nat) : (s.diag c n).i = s.i := rfl
@[simp] theorem State.diag_pc (c : DiagCode) (n : Nat) : (s.diag c n).pc = s.pc := rfl
@[simp] theorem State.diag_sp (c : DiagCode) (n : Nat) : (s.diag c n).sp = s.sp := rfl
@[simp] theorem State.diag_stack (c : DiagCode) (n : Nat) : (s.diag c n).stack = s.stack := rfl
@[simp] theorem State.diag_dt (c : DiagCode) (n : Nat) : (s.diag c n).dt = s.dt := rfl
@[simp] theorem State.diag_st (c : DiagCode) (n : Nat) : (s.diag c n).st = s.st := rfl
@[simp] theorem State.diag_tone (c : DiagCode) (n : Nat) : (s.diag c n).tone = s.tone := rfl
@[simp] theorem State.diag_key (c : DiagCode) (n : Nat) : (s.diag c n).key = s.key := rfl
@[simp] theorem State.diag_fb (c : DiagCode) (n : Nat) : (s.diag c n).fb = s.fb := rfl
@[simp] theorem State.diag_run (c : DiagCode) (n : Nat) : (s.diag c n).run = s.run := rfl
@[simp] theorem State.diag_pcUpdated (c : DiagCode) (n : Nat) : (s.diag c n).pcUpdated = s.pcUpdated := rfl
@[simp] theorem State.diag_romEnd (c : DiagCode) (n : Nat) : (s.diag c n).romEnd = s.romEnd := rfl
@[simp] theorem State.diag_mem (c : DiagCode) (n : Nat) : (s.diag c n).mem = s.mem := rfl
@[simp] theorem State.diag_cfg (c : DiagCode) (n : Nat) : (s.diag c n).cfg = s.cfg := rfl
@[simp] theorem State.diag_live (c : DiagCode) (n : Nat) : (s.diag c n).live = s.live := rfl
@[simp] theorem State.diag_diagLog (c : DiagCode) (n : Nat) : (s.diag c n).diagLog = if s.cfg.diagEnabled then s.diagLog ++ [⟨c, n, s.pc⟩] else s.diagLog := rfl
@[simp] theorem State.diag_outputs (c : DiagCode) (n : Nat) : (s.diag c n).outputs = if s.cfg.diagEnabled then s.outputs ++ [.diag ⟨c, n, s.pc⟩] else s.outputs := rfl
@[simp] theorem State.diag_draws (c : DiagCode) (n : Nat) : (s.diag c n).draws = s.draws := rfl
@[simp] theorem State.diag_schedule (c : DiagCode) (n : Nat) : (s.diag c n).schedule = s.schedule := rfl

/-! ### putByte -/

@[simp] theorem State.putByte_v (a : Nat) (b : Byte) : (s.putByte a b).v = s.v := rfl
@[simp] theorem State.putByte_i (a : Nat) (b : Byte) : (s.putByte a b).i = s.i := rfl
@[simp] theorem State.putByte_pc (a : Nat) (b : Byte) : (s.putByte a b).pc = s.pc := rfl
@[simp] theorem State.putByte_sp (a : Nat) (b : Byte) : (s.putByte a b).sp = s.sp := rfl
@[simp] theorem State.putByte_stack (a : Nat) (b : Byte) : (s.putByte a b).stack = s.stack := rfl
@[simp] theorem State.putByte_dt (a : Nat) (b : Byte) : (s.putByte a b).dt = s.dt := rfl
@[simp] theorem State.putByte_st (a : Nat) (b : Byte) : (s.putByte a b).st = s.st := rfl
@[simp] theorem State.putByte_tone (a : Nat) (b : Byte) : (s.putByte a b).tone = s.tone := rfl
@[simp] theorem State.putByte_key (a : Nat) (b : Byte) : (s.putByte a b).key = s.key := rfl
@[simp] theorem State.putByte_fb (a : Nat) (b : Byte) : (s.putByte a b).fb = s.fb := rfl
@[simp] theorem State.putByte_run (a : Nat) (b : Byte) : (s.putByte a b).run = s.run := rfl
@[simp] theorem State.putByte_pcUpdated (a : Nat) (b : Byte) : (s.putByte a b).pcUpdated = s.pcUpdated := rfl
@[simp] theorem State.putByte_romEnd (a : Nat) (b : Byte) : (s.putByte a b).romEnd = s.romEnd := rfl
@[simp] theorem State.putByte_mem (a : Nat) (b : Byte) : (s.putByte a b).mem = putCell (memBackground s.cfg a) a b s.mem := rfl
@[simp] theorem State.putByte_cfg (a : Nat) (b : Byte) : (s.putByte a b).cfg = s.cfg := rfl
@[simp] theorem State.putByte_live (a : Nat) (b : Byte) : (s.putByte a b).live = s.live := rfl
@[simp] theorem State.putByte_diagLog (a : Nat) (b : Byte) : (s.putByte a b).diagLog = s.diagLog := rfl
@[simp] theorem State.putByte_outputs (a : Nat) (b : Byte) : (s.putByte a b).outputs = s.outputs := rfl
@[simp] theorem State.putByte_draws (a : Nat) (b : Byte) : (s.putByte a b).draws = s.draws := rfl
@[simp] theorem State.putByte_schedule (a : Nat) (b : Byte) : (s.putByte a b).schedule = s.schedule := rfl

/-! ### raiseFatal -/

@[simp] theorem State.raiseFatal_v (c : FatalCode) (w : Option Word) : (s.raiseFatal c w).v = s.v := rfl
@[simp] theorem State.raiseFatal_i (c : FatalCode) (w : Option Word) : (s.raiseFatal c w).i = s.i := rfl
@[simp] theorem State.raiseFatal_pc (c : FatalCode) (w : Option Word) : (s.raiseFatal c w).pc = s.pc := rfl
@[simp] theorem State.raiseFatal_sp (c : FatalCode) (w : Option Word) : (s.raiseFatal c w).sp = s.sp := rfl
@[simp] theorem State.raiseFatal_stack (c : FatalCode) (w : Option Word) : (s.raiseFatal c w).stack = s.stack := rfl
@[simp] theorem State.raiseFatal_dt (c : FatalCode) (w : Option Word) : (s.raiseFatal c w).dt = s.dt := rfl
@[simp] theorem State.raiseFatal_st (c : FatalCode) (w : Option Word) : (s.raiseFatal c w).st = s.st := rfl
@[simp] theorem State.raiseFatal_tone (c : FatalCode) (w : Option Word) : (s.raiseFatal c w).tone = s.tone := rfl
@[simp] theorem State.raiseFatal_key (c : FatalCode) (w : Option Word) : (s.raiseFatal c w).key = s.key := rfl
@[simp] theorem State.raiseFatal_fb (c : FatalCode) (w : Option Word) : (s.raiseFatal c w).fb = s.fb := rfl
@[simp] theorem State.raiseFatal_run (c : FatalCode) (w : Option Word) : (s.raiseFatal c w).run = .halted c := rfl
@[simp] theorem State.raiseFatal_pcUpdated (c : FatalCode) (w : Option Word) : (s.raiseFatal c w).pcUpdated = s.pcUpdated := rfl
@[simp] theorem State.raiseFatal_romEnd (c : FatalCode) (w : Option Word) : (s.raiseFatal c w).romEnd = s.romEnd := rfl
@[simp] theorem State.raiseFatal_mem (c : FatalCode) (w : Option Word) : (s.raiseFatal c w).mem = s.mem := rfl
@[simp] theorem State.raiseFatal_cfg (c : FatalCode) (w : Option Word) : (s.raiseFatal c w).cfg = s.cfg := rfl
@[simp] theorem State.raiseFatal_live (c : FatalCode) (w : Option Word) : (s.raiseFatal c w).live = s.live := rfl
@[simp] theorem State.raiseFatal_diagLog (c : FatalCode) (w : Option Word) : (s.raiseFatal c w).diagLog = s.diagLog := rfl
@[simp] theorem State.raiseFatal_outputs (c : FatalCode) (w : Option Word) : (s.raiseFatal c w).outputs = s.outputs ++ [.error (.fatal c s.pc w)] := rfl
@[simp] theorem State.raiseFatal_draws (c : FatalCode) (w : Option Word) : (s.raiseFatal c w).draws = s.draws := rfl
@[simp] theorem State.raiseFatal_schedule (c : FatalCode) (w : Option Word) : (s.raiseFatal c w).schedule = s.schedule := rfl

/-! ### raiseFatalAtInstr -/

@[simp] theorem State.raiseFatalAtInstr_v (c : FatalCode) : (s.raiseFatalAtInstr c).v = s.v := rfl
@[simp] theorem State.raiseFatalAtInstr_i (c : FatalCode) : (s.raiseFatalAtInstr c).i = s.i := rfl
@[simp] theorem State.raiseFatalAtInstr_pc (c : FatalCode) : (s.raiseFatalAtInstr c).pc = s.pc := rfl
@[simp] theorem State.raiseFatalAtInstr_sp (c : FatalCode) : (s.raiseFatalAtInstr c).sp = s.sp := rfl
@[simp] theorem State.raiseFatalAtInstr_stack (c : FatalCode) : (s.raiseFatalAtInstr c).stack = s.stack := rfl
@[simp] theorem State.raiseFatalAtInstr_dt (c : FatalCode) : (s.raiseFatalAtInstr c).dt = s.dt := rfl
@[simp] theorem State.raiseFatalAtInstr_st (c : FatalCode) : (s.raiseFatalAtInstr c).st = s.st := rfl
@[simp] theorem State.raiseFatalAtInstr_tone (c : FatalCode) : (s.raiseFatalAtInstr c).tone = s.tone := rfl
@[simp] theorem State.raiseFatalAtInstr_key (c : FatalCode) : (s.raiseFatalAtInstr c).key = s.key := rfl
@[simp] theorem State.raiseFatalAtInstr_fb (c : FatalCode) : (s.raiseFatalAtInstr c).fb = s.fb := rfl
@[simp] theorem State.raiseFatalAtInstr_run (c : FatalCode) : (s.raiseFatalAtInstr c).run = .halted c := rfl
@[simp] theorem State.raiseFatalAtInstr_pcUpdated (c : FatalCode) : (s.raiseFatalAtInstr c).pcUpdated = s.pcUpdated := rfl
@[simp] theorem State.raiseFatalAtInstr_romEnd (c : FatalCode) : (s.raiseFatalAtInstr c).romEnd = s.romEnd := rfl
@[simp] theorem State.raiseFatalAtInstr_mem (c : FatalCode) : (s.raiseFatalAtInstr c).mem = s.mem := rfl
@[simp] theorem State.raiseFatalAtInstr_cfg (c : FatalCode) : (s.raiseFatalAtInstr c).cfg = s.cfg := rfl
@[simp] theorem State.raiseFatalAtInstr_live (c : FatalCode) : (s.raiseFatalAtInstr c).live = s.live := rfl
@[simp] theorem State.raiseFatalAtInstr_diagLog (c : FatalCode) : (s.raiseFatalAtInstr c).diagLog = s.diagLog := rfl
@[simp] theorem State.raiseFatalAtInstr_outputs (c : FatalCode) : (s.raiseFatalAtInstr c).outputs = s.outputs ++ [.error (.fatal c s.pc (some s.fetchWord))] := rfl
@[simp] theorem State.raiseFatalAtInstr_draws (c : FatalCode) : (s.raiseFatalAtInstr c).draws = s.draws := rfl
@[simp] theorem State.raiseFatalAtInstr_schedule (c : FatalCode) : (s.raiseFatalAtInstr c).schedule = s.schedule := rfl

/-! ### jumpTo -/

@[simp] theorem State.jumpTo_v (w : Word) : (s.jumpTo w).v = s.v := rfl
@[simp] theorem State.jumpTo_i (w : Word) : (s.jumpTo w).i = s.i := rfl
@[simp] theorem State.jumpTo_pc (w : Word) : (s.jumpTo w).pc = w := rfl
@[simp] theorem State.jumpTo_sp (w : Word) : (s.jumpTo w).sp = s.sp := rfl
@[simp] theorem State.jumpTo_stack (w : Word) : (s.jumpTo w).stack = s.stack := rfl
@[simp] theorem State.jumpTo_dt (w : Word) : (s.jumpTo w).dt = s.dt := rfl
@[simp] theorem State.jumpTo_st (w : Word) : (s.jumpTo w).st = s.st := rfl
@[simp] theorem State.jumpTo_tone (w : Word) : (s.jumpTo w).tone = s.tone := rfl
@[simp] theorem State.jumpTo_key (w : Word) : (s.jumpTo w).key = s.key := rfl
@[simp] theorem State.jumpTo_fb (w : Word) : (s.jumpTo w).fb = s.fb := rfl
@[simp] theorem State.jumpTo_run (w : Word) : (s.jumpTo w).run = s.run := rfl
@[simp] theorem State.jumpTo_pcUpdated (w : Word) : (s.jumpTo w).pcUpdated = true := rfl
@[simp] theorem State.jumpTo_romEnd (w : Word) : (s.jumpTo w).romEnd = s.romEnd := rfl
@[simp] theorem State.jumpTo_mem (w : Word) : (s.jumpTo w).mem = s.mem := rfl
@[simp] theorem State.jumpTo_cfg (w : Word) : (s.jumpTo w).cfg = s.cfg := rfl
@[simp] theorem State.jumpTo_live (w : Word) : (s.jumpTo w).live = s.live := rfl
@[simp] theorem State.jumpTo_diagLog (w : Word) : (s.jumpTo w).diagLog = s.diagLog := rfl
@[simp] theorem State.jumpTo_outputs (w : Word) : (s.jumpTo w).outputs = s.outputs := rfl
@[simp] theorem State.jumpTo_draws (w : Word) : (s.jumpTo w).draws = s.draws := rfl
@[simp] theorem State.jumpTo_schedule (w : Word) : (s.jumpTo w).schedule = s.schedule := rfl

/-! ### skipIf -/

@[simp] theorem State.skipIf_v (c : Bool) : (s.skipIf c).v = s.v := rfl
@[simp] theorem State.skipIf_i (c : Bool) : (s.skipIf c).i = s.i := rfl
@[simp] theorem State.skipIf_pc (c : Bool) : (s.skipIf c).pc = if c then s.pc + 2 else s.pc := rfl
@[simp] theorem State.skipIf_sp (c : Bool) : (s.skipIf c).sp = s.sp := rfl
@[simp] theorem State.skipIf_stack (c : Bool) : (s.skipIf c).stack = s.stack := rfl
@[simp] theorem State.skipIf_dt (c : Bool) : (s.skipIf c).dt = s.dt := rfl
@[simp] theorem State.skipIf_st (c : Bool) : (s.skipIf c).st = s.st := rfl
@[simp] theorem State.skipIf_tone (c : Bool) : (s.skipIf c).tone = s.tone := rfl
@[simp] theorem State.skipIf_key (c : Bool) : (s.skipIf c).key = s.key := rfl
@[simp] theorem State.skipIf_fb (c : Bool) : (s.skipIf c).fb = s.fb := rfl
@[simp] theorem State.skipIf_run (c : Bool) : (s.skipIf c).run = s.run := rfl
@[simp] theorem State.skipIf_pcUpdated (c : Bool) : (s.skipIf c).pcUpdated = s.pcUpdated := rfl
@[simp] theorem State.skipIf_romEnd (c : Bool) : (s.skipIf c).romEnd = s.romEnd := rfl
@[simp] theorem State.skipIf_mem (c : Bool) : (s.skipIf c).mem = s.mem := rfl
@[simp] theorem State.skipIf_cfg (c : Bool) : (s.skipIf c).cfg = s.cfg := rfl
@[simp] theorem State.skipIf_live (c : Bool) : (s.skipIf c).live = s.live := rfl
@[simp] theorem State.skipIf_diagLog (c : Bool) : (s.skipIf c).diagLog = s.diagLog := rfl
@[simp] theorem State.skipIf_outputs (c : Bool) : (s.skipIf c).outputs = s.outputs := rfl
@[simp] theorem State.skipIf_draws (c : Bool) : (s.skipIf c).draws = s.draws := rfl
@[simp] theorem State.skipIf_schedule (c : Bool) : (s.skipIf c).schedule = s.schedule := rfl

/-! ### commonAdvance -/

@[simp] theorem State.commonAdvance_v : s.commonAdvance.v = s.v := rfl
@[simp] theorem State.commonAdvance_i : s.commonAdvance.i = s.i := rfl
@[simp] theorem State.commonAdvance_pc : s.commonAdvance.pc = if s.pcUpdated then s.pc else s.pc + 2 := rfl
@[simp] theorem State.commonAdvance_sp : s.commonAdvance.sp = s.sp := rfl
@[simp] theorem State.commonAdvance_stack : s.commonAdvance.stack = s.stack := rfl
@[simp] theorem State.commonAdvance_dt : s.commonAdvance.dt = s.dt := rfl
@[simp] theorem State.commonAdvance_st : s.commonAdvance.st = s.st := rfl
@[simp] theorem State.commonAdvance_tone : s.commonAdvance.tone = s.tone := rfl
@[simp] theorem State.commonAdvance_key : s.commonAdvance.key = s.key := rfl
@[simp] theorem State.commonAdvance_fb : s.commonAdvance.fb = s.fb := rfl
@[simp] theorem State.commonAdvance_run : s.commonAdvance.run = s.run := rfl
@[simp] theorem State.commonAdvance_pcUpdated : s.commonAdvance.pcUpdated = s.pcUpdated := rfl
@[simp] theorem State.commonAdvance_romEnd : s.commonAdvance.romEnd = s.romEnd := rfl
@[simp] theorem State.commonAdvance_mem : s.commonAdvance.mem = s.mem := rfl
@[simp] theorem State.commonAdvance_cfg : s.commonAdvance.cfg = s.cfg := rfl
@[simp] theorem State.commonAdvance_live : s.commonAdvance.live = s.live := rfl
@[simp] theorem State.commonAdvance_diagLog : s.commonAdvance.diagLog = s.diagLog := rfl
@[simp] theorem State.commonAdvance_outputs : s.commonAdvance.outputs = s.outputs := rfl
@[simp] theorem State.commonAdvance_draws : s.commonAdvance.draws = s.draws := rfl
@[simp] theorem State.commonAdvance_schedule : s.commonAdvance.schedule = s.schedule := rfl

/-! ### countDraw -/

@[simp] theorem State.countDraw_v : s.countDraw.v = s.v := rfl
@[simp] theorem State.countDraw_i : s.countDraw.i = s.i := rfl
@[simp] theorem State.countDraw_pc : s.countDraw.pc = s.pc := rfl
@[simp] theorem State.countDraw_sp : s.countDraw.sp = s.sp := rfl
@[simp] theorem State.countDraw_stack : s.countDraw.stack = s.stack := rfl
@[simp] theorem State.countDraw_dt : s.countDraw.dt = s.dt := rfl
@[simp] theorem State.countDraw_st : s.countDraw.st = s.st := rfl
@[simp] theorem State.countDraw_tone : s.countDraw.tone = s.tone := rfl
@[simp] theorem State.countDraw_key : s.countDraw.key = s.key := rfl
@[simp] theorem State.countDraw_fb : s.countDraw.fb = s.fb := rfl
@[simp] theorem State.countDraw_run : s.countDraw.run = s.run := rfl
@[simp] theorem State.countDraw_pcUpdated : s.countDraw.pcUpdated = s.pcUpdated := rfl
@[simp] theorem State.countDraw_romEnd : s.countDraw.romEnd = s.romEnd := rfl
@[simp] theorem State.countDraw_mem : s.countDraw.mem = s.mem := rfl
@[simp] theorem State.countDraw_cfg : s.countDraw.cfg = s.cfg := rfl
@[simp] theorem State.countDraw_live : s.countDraw.live = s.live := rfl
@[simp] theorem State.countDraw_diagLog : s.countDraw.diagLog = s.diagLog := rfl
@[simp] theorem State.countDraw_outputs : s.countDraw.outputs = s.outputs := rfl
@[simp] theorem State.countDraw_draws : s.countDraw.draws = s.draws + 1 := rfl
@[simp] theorem State.countDraw_schedule : s.countDraw.schedule = s.schedule := rfl

/-! ### setSound -/

@[simp] theorem State.setSound_v (b : Byte) : (s.setSound b).v = s.v := rfl
@[simp] theorem State.setSound_i (b : Byte) : (s.setSound b).i = s.i := rfl
@[simp] theorem State.setSound_pc (b : Byte) : (s.setSound b).pc = s.pc := rfl
@[simp] theorem State.setSound_sp (b : Byte) : (s.setSound b).sp = s.sp := rfl
@[simp] theorem State.setSound_stack (b : Byte) : (s.setSound b).stack = s.stack := rfl
@[simp] theorem State.setSound_dt (b : Byte) : (s.setSound b).dt = s.dt := rfl
@[simp] theorem State.setSound_st (b : Byte) : (s.setSound b).st = b := rfl
@[simp] theorem State.setSound_key (b : Byte) : (s.setSound b).key = s.key := rfl
@[simp] theorem State.setSound_fb (b : Byte) : (s.setSound b).fb = s.fb := rfl
@[simp] theorem State.setSound_run (b : Byte) : (s.setSound b).run = s.run := rfl
@[simp] theorem State.setSound_pcUpdated (b : Byte) : (s.setSound b).pcUpdated = s.pcUpdated := rfl
@[simp] theorem State.setSound_romEnd (b : Byte) : (s.setSound b).romEnd = s.romEnd := rfl
@[simp] theorem State.setSound_mem (b : Byte) : (s.setSound b).mem = s.mem := rfl
@[simp] theorem State.setSound_cfg (b : Byte) : (s.setSound b).cfg = s.cfg := rfl
@[simp] theorem State.setSound_live (b : Byte) : (s.setSound b).live = s.live := rfl
@[simp] theorem State.setSound_diagLog (b : Byte) : (s.setSound b).diagLog = s.diagLog := rfl
@[simp] theorem State.setSound_draws (b : Byte) : (s.setSound b).draws = s.draws := rfl
@[simp] theorem State.setSound_schedule (b : Byte) : (s.setSound b).schedule = s.schedule := rfl

/-! ### resultThenFlag -/

@[simp] theorem State.resultThenFlag_v (x : Reg) (a f : Byte) : (s.resultThenFlag x a f).v = (s.v.set x.val a).set 15 f := rfl
@[simp] theorem State.resultThenFlag_i (x : Reg) (a f : Byte) : (s.resultThenFlag x a f).i = s.i := rfl
@[simp] theorem State.resultThenFlag_pc (x : Reg) (a f : Byte) : (s.resultThenFlag x a f).pc = s.pc := rfl
@[simp] theorem State.resultThenFlag_sp (x : Reg) (a f : Byte) : (s.resultThenFlag x a f).sp = s.sp := rfl
@[simp] theorem State.resultThenFlag_stack (x : Reg) (a f : Byte) : (s.resultThenFlag x a f).stack = s.stack := rfl
@[simp] theorem State.resultThenFlag_dt (x : Reg) (a f : Byte) : (s.resultThenFlag x a f).dt = s.dt := rfl
@[simp] theorem State.resultThenFlag_st (x : Reg) (a f : Byte) : (s.resultThenFlag x a f).st = s.st := rfl
@[simp] theorem State.resultThenFlag_tone (x : Reg) (a f : Byte) : (s.resultThenFlag x a f).tone = s.tone := rfl
@[simp] theorem State.resultThenFlag_key (x : Reg) (a f : Byte) : (s.resultThenFlag x a f).key = s.key := rfl
@[simp] theorem State.resultThenFlag_fb (x : Reg) (a f : Byte) : (s.resultThenFlag x a f).fb = s.fb := rfl
@[simp] theorem State.resultThenFlag_run (x : Reg) (a f : Byte) : (s.resultThenFlag x a f).run = s.run := rfl
@[simp] theorem State.resultThenFlag_pcUpdated (x : Reg) (a f : Byte) : (s.resultThenFlag x a f).pcUpdated = s.pcUpdated := rfl
@[simp] theorem State.resultThenFlag_romEnd (x : Reg) (a f : Byte) : (s.resultThenFlag x a f).romEnd = s.romEnd := rfl
@[simp] theorem State.resultThenFlag_mem (x : Reg) (a f : Byte) : (s.resultThenFlag x a f).mem = s.mem := rfl
@[simp] theorem State.resultThenFlag_cfg (x : Reg) (a f : Byte) : (s.resultThenFlag x a f).cfg = s.cfg := rfl
@[simp] theorem State.resultThenFlag_live (x : Reg) (a f : Byte) : (s.resultThenFlag x a f).live = s.live := rfl
@[simp] theorem State.resultThenFlag_diagLog (x : Reg) (a f : Byte) : (s.resultThenFlag x a f).diagLog = s.diagLog := rfl
@[simp] theorem State.resultThenFlag_outputs (x : Reg) (a f : Byte) : (s.resultThenFlag x a f).outputs = s.outputs := rfl
@[simp] theorem State.resultThenFlag_draws (x : Reg) (a f : Byte) : (s.resultThenFlag x a f).draws = s.draws := rfl
@[simp] theorem State.resultThenFlag_schedule (x : Reg) (a f : Byte) : (s.resultThenFlag x a f).schedule = s.schedule := rfl

/-! ### flagThenResult -/

@[simp] theorem State.flagThenResult_i (x : Reg) (f g : Byte → Byte) : (s.flagThenResult x f g).i = s.i := rfl
@[simp] theorem State.flagThenResult_pc (x : Reg) (f g : Byte → Byte) : (s.flagThenResult x f g).pc = s.pc := rfl
@[simp] theorem State.flagThenResult_sp (x : Reg) (f g : Byte → Byte) : (s.flagThenResult x f g).sp = s.sp := rfl
@[simp] theorem State.flagThenResult_stack (x : Reg) (f g : Byte → Byte) : (s.flagThenResult x f g).stack = s.stack := rfl
@[simp] theorem State.flagThenResult_dt (x : Reg) (f g : Byte → Byte) : (s.flagThenResult x f g).dt = s.dt := rfl
@[simp] theorem State.flagThenResult_st (x : Reg) (f g : Byte → Byte) : (s.flagThenResult x f g).st = s.st := rfl
@[simp] theorem State.flagThenResult_tone (x : Reg) (f g : Byte → Byte) : (s.flagThenResult x f g).tone = s.tone := rfl
@[simp] theorem State.flagThenResult_key (x : Reg) (f g : Byte → Byte) : (s.flagThenResult x f g).key = s.key := rfl
@[simp] theorem State.flagThenResult_fb (x : Reg) (f g : Byte → Byte) : (s.flagThenResult x f g).fb = s.fb := rfl
@[simp] theorem State.flagThenResult_run (x : Reg) (f g : Byte → Byte) : (s.flagThenResult x f g).run = s.run := rfl
@[simp] theorem State.flagThenResult_pcUpdated (x : Reg) (f g : Byte → Byte) : (s.flagThenResult x f g).pcUpdated = s.pcUpdated := rfl
@[simp] theorem State.flagThenResult_romEnd (x : Reg) (f g : Byte → Byte) : (s.flagThenResult x f g).romEnd = s.romEnd := rfl
@[simp] theorem State.flagThenResult_mem (x : Reg) (f g : Byte → Byte) : (s.flagThenResult x f g).mem = s.mem := rfl
@[simp] theorem State.flagThenResult_cfg (x : Reg) (f g : Byte → Byte) : (s.flagThenResult x f g).cfg = s.cfg := rfl
@[simp] theorem State.flagThenResult_live (x : Reg) (f g : Byte → Byte) : (s.flagThenResult x f g).live = s.live := rfl
@[simp] theorem State.flagThenResult_diagLog (x : Reg) (f g : Byte → Byte) : (s.flagThenResult x f g).diagLog = s.diagLog := rfl
@[simp] theorem State.flagThenResult_outputs (x : Reg) (f g : Byte → Byte) : (s.flagThenResult x f g).outputs = s.outputs := rfl
@[simp] theorem State.flagThenResult_draws (x : Reg) (f g : Byte → Byte) : (s.flagThenResult x f g).draws = s.draws := rfl
@[simp] theorem State.flagThenResult_schedule (x : Reg) (f g : Byte → Byte) : (s.flagThenResult x f g).schedule = s.schedule := rfl

/-! ### fbDrawRow -/

@[simp] theorem State.fbDrawRow_v (x y : Nat) (b : Byte) : (s.fbDrawRow x y b).2.v = s.v := rfl
@[simp] theorem State.fbDrawRow_i (x y : Nat) (b : Byte) : (s.fbDrawRow x y b).2.i = s.i := rfl
@[simp] theorem State.fbDrawRow_pc (x y : Nat) (b : Byte) : (s.fbDrawRow x y b).2.pc = s.pc := rfl
@[simp] theorem State.fbDrawRow_sp (x y : Nat) (b : Byte) : (s.fbDrawRow x y b).2.sp = s.sp := rfl
@[simp] theorem State.fbDrawRow_stack (x y : Nat) (b : Byte) : (s.fbDrawRow x y b).2.stack = s.stack := rfl
@[simp] theorem State.fbDrawRow_dt (x y : Nat) (b : Byte) : (s.fbDrawRow x y b).2.dt = s.dt := rfl
@[simp] theorem State.fbDrawRow_st (x y : Nat) (b : Byte) : (s.fbDrawRow x y b).2.st = s.st := rfl
@[simp] theorem State.fbDrawRow_tone (x y : Nat) (b : Byte) : (s.fbDrawRow x y b).2.tone = s.tone := rfl
@[simp] theorem State.fbDrawRow_key (x y : Nat) (b : Byte) : (s.fbDrawRow x y b).2.key = s.key := rfl
@[simp] theorem State.fbDrawRow_fb (x y : Nat) (b : Byte) : (s.fbDrawRow x y b).2.fb = (drawRow s.cfg.displayW s.cfg.displayH x y b s.fb).2 := rfl
@[simp] theorem State.fbDrawRow_run (x y : Nat) (b : Byte) : (s.fbDrawRow x y b).2.run = s.run := rfl
@[simp] theorem State.fbDrawRow_pcUpdated (x y : Nat) (b : Byte) : (s.fbDrawRow x y b).2.pcUpdated = s.pcUpdated := rfl
@[simp] theorem State.fbDrawRow_romEnd (x y : Nat) (b : Byte) : (s.fbDrawRow x y b).2.romEnd = s.romEnd := rfl
@[simp] theorem State.fbDrawRow_mem (x y : Nat) (b : Byte) : (s.fbDrawRow x y b).2.mem = s.mem := rfl
@[simp] theorem State.fbDrawRow_cfg (x y : Nat) (b : Byte) : (s.fbDrawRow x y b).2.cfg = s.cfg := rfl
@[simp] theorem State.fbDrawRow_live (x y : Nat) (b : Byte) : (s.fbDrawRow x y b).2.live = s.live := rfl
@[simp] theorem State.fbDrawRow_diagLog (x y : Nat) (b : Byte) : (s.fbDrawRow x y b).2.diagLog = s.diagLog := rfl
@[simp] theorem State.fbDrawRow_draws (x y : Nat) (b : Byte) : (s.fbDrawRow x y b).2.draws = s.draws := rfl
@[simp] theorem State.fbDrawRow_schedule (x y : Nat) (b : Byte) : (s.fbDrawRow x y b).2.schedule = s.schedule := rfl

/-! ### fbClear -/

@[simp] theorem State.fbClear_v : s.fbClear.v = s.v := rfl
@[simp] theorem State.fbClear_i : s.fbClear.i = s.i := rfl
@[simp] theorem State.fbClear_pc : s.fbClear.pc = s.pc := rfl
@[simp] theorem State.fbClear_sp : s.fbClear.sp = s.sp := rfl
@[simp] theorem State.fbClear_stack : s.fbClear.stack = s.stack := rfl
@[simp] theorem State.fbClear_dt : s.fbClear.dt = s.dt := rfl
@[simp] theorem State.fbClear_st : s.fbClear.st = s.st := rfl
@[simp] theorem State.fbClear_tone : s.fbClear.tone = s.tone := rfl
@[simp] theorem State.fbClear_key : s.fbClear.key = s.key := rfl
@[simp] theorem State.fbClear_fb : s.fbClear.fb = List.replicate s.cfg.displayH (List.replicate s.cfg.displayW false) := rfl
@[simp] theorem State.fbClear_run : s.fbClear.run = s.run := rfl
@[simp] theorem State.fbClear_pcUpdated : s.fbClear.pcUpdated = s.pcUpdated := rfl
@[simp] theorem State.fbClear_romEnd : s.fbClear.romEnd = s.romEnd := rfl
@[simp] theorem State.fbClear_mem : s.fbClear.mem = s.mem := rfl
@[simp] theorem State.fbClear_cfg : s.fbClear.cfg = s.cfg := rfl
@[simp] theorem State.fbClear_live : s.fbClear.live = s.live := rfl
@[simp] theorem State.fbClear_diagLog : s.fbClear.diagLog = s.diagLog := rfl
@[simp] theorem State.fbClear_outputs : s.fbClear.outputs = s.outputs ++ [.fbClear] := rfl
@[simp] theorem State.fbClear_draws : s.fbClear.draws = s.draws := rfl
@[simp] theorem State.fbClear_schedule : s.fbClear.schedule = s.schedule := rfl

/-! ### delayTick -/

@[simp] theorem State.delayTick_v : s.delayTick.v = s.v := rfl
@[simp] theorem State.delayTick_i : s.delayTick.i = s.i := rfl
@[simp] theorem State.delayTick_pc : s.delayTick.pc = s.pc := rfl
@[simp] theorem State.delayTick_sp : s.delayTick.sp = s.sp := rfl
@[simp] theorem State.delayTick_stack : s.delayTick.stack = s.stack := rfl
@[simp] theorem State.delayTick_dt : s.delayTick.dt = if s.dt = 0 then 0 else s.dt - 1 := rfl
@[simp] theorem State.delayTick_st : s.delayTick.st = s.st := rfl
@[simp] theorem State.delayTick_tone : s.delayTick.tone = s.tone := rfl
@[simp] theorem State.delayTick_key : s.delayTick.key = s.key := rfl
@[simp] theorem State.delayTick_fb : s.delayTick.fb = s.fb := rfl
@[simp] theorem State.delayTick_run : s.delayTick.run = s.run := rfl
@[simp] theorem State.delayTick_pcUpdated : s.delayTick.pcUpdated = s.pcUpdated := rfl
@[simp] theorem State.delayTick_romEnd : s.delayTick.romEnd = s.romEnd := rfl
@[simp] theorem State.delayTick_mem : s.delayTick.mem = s.mem := rfl
@[simp] theorem State.delayTick_cfg : s.delayTick.cfg = s.cfg := rfl
@[simp] theorem State.delayTick_live : s.delayTick.live = s.live := rfl
@[simp] theorem State.delayTick_diagLog : s.delayTick.diagLog = s.diagLog := rfl
@[simp] theorem State.delayTick_outputs : s.delayTick.outputs = s.outputs := rfl
@[simp] theorem State.delayTick_draws : s.delayTick.draws = s.draws := rfl
@[simp] theorem State.delayTick_schedule : s.delayTick.schedule = s.schedule := rfl

/-! ### soundTick -/

@[simp] theorem State.soundTick_v : s.soundTick.v = s.v := rfl
@[simp] theorem State.soundTick_i : s.soundTick.i = s.i := rfl
@[simp] theorem State.soundTick_pc : s.soundTick.pc = s.pc := rfl
@[simp] theorem State.soundTick_sp : s.soundTick.sp = s.sp := rfl
@[simp] theorem State.soundTick_stack : s.soundTick.stack = s.stack := rfl
@[simp] theorem State.soundTick_dt : s.soundTick.dt = s.dt := rfl
@[simp] theorem State.soundTick_st : s.soundTick.st = if s.st = 0 then 0 else s.st - 1 := rfl
@[simp] theorem State.soundTick_key : s.soundTick.key = s.key := rfl
@[simp] theorem State.soundTick_fb : s.soundTick.fb = s.fb := rfl
@[simp] theorem State.soundTick_run : s.soundTick.run = s.run := rfl
@[simp] theorem State.soundTick_pcUpdated : s.soundTick.pcUpdated = s.pcUpdated := rfl
@[simp] theorem State.soundTick_romEnd : s.soundTick.romEnd = s.romEnd := rfl
@[simp] theorem State.soundTick_mem : s.soundTick.mem = s.mem := rfl
@[simp] theorem State.soundTick_cfg : s.soundTick.cfg = s.cfg := rfl
@[simp] theorem State.soundTick_live : s.soundTick.live = s.live := rfl
@[simp] theorem State.soundTick_diagLog : s.soundTick.diagLog = s.diagLog := rfl
@[simp] theorem State.soundTick_draws : s.soundTick.draws = s.draws := rfl
@[simp] theorem State.soundTick_schedule : s.soundTick.schedule = s.schedule := rfl

/-! ### setKey -/

@[simp] theorem State.setKey_v (k : Fin 16) (p : Bool) : (s.setKey k p).v = s.v := rfl
@[simp] theorem State.setKey_i (k : Fin 16) (p : Bool) : (s.setKey k p).i = s.i := rfl
@[simp] theorem State.setKey_pc (k : Fin 16) (p : Bool) : (s.setKey k p).pc = s.pc := rfl
@[simp] theorem State.setKey_sp (k : Fin 16) (p : Bool) : (s.setKey k p).sp = s.sp := rfl
@[simp] theorem State.setKey_stack (k : Fin 16) (p : Bool) : (s.setKey k p).stack = s.stack := rfl
@[simp] theorem State.setKey_dt (k : Fin 16) (p : Bool) : (s.setKey k p).dt = s.dt := rfl
@[simp] theorem State.setKey_st (k : Fin 16) (p : Bool) : (s.setKey k p).st = s.st := rfl
@[simp] theorem State.setKey_tone (k : Fin 16) (p : Bool) : (s.setKey k p).tone = s.tone := rfl
@[simp] theorem State.setKey_key (k : Fin 16) (p : Bool) : (s.setKey k p).key = s.key.set k.val p := rfl
@[simp] theorem State.setKey_fb (k : Fin 16) (p : Bool) : (s.setKey k p).fb = s.fb := rfl
@[simp] theorem State.setKey_run (k : Fin 16) (p : Bool) : (s.setKey k p).run = s.run := rfl
@[simp] theorem State.setKey_pcUpdated (k : Fin 16) (p : Bool) : (s.setKey k p).pcUpdated = s.pcUpdated := rfl
@[simp] theorem State.setKey_romEnd (k : Fin 16) (p : Bool) : (s.setKey k p).romEnd = s.romEnd := rfl
@[simp] theorem State.setKey_mem (k : Fin 16) (p : Bool) : (s.setKey k p).mem = s.mem := rfl
@[simp] theorem State.setKey_cfg (k : Fin 16) (p : Bool) : (s.setKey k p).cfg = s.cfg := rfl
@[simp] theorem State.setKey_live (k : Fin 16) (p : Bool) : (s.setKey k p).live = s.live := rfl
@[simp] theorem State.setKey_diagLog (k : Fin 16) (p : Bool) : (s.setKey k p).diagLog = s.diagLog := rfl
@[simp] theorem State.setKey_outputs (k : Fin 16) (p : Bool) : (s.setKey k p).outputs = s.outputs := rfl
@[simp] theorem State.setKey_draws (k : Fin 16) (p : Bool) : (s.setKey k p).draws = s.draws := rfl
@[simp] theorem State.setKey_schedule (k : Fin 16) (p : Bool) : (s.setKey k p).schedule = s.schedule := rfl

/-! ### requestShutdown -/

@[simp] theorem State.requestShutdown_v : s.requestShutdown.v = s.v := rfl
@[simp] theorem State.requestShutdown_i : s.requestShutdown.i = s.i := rfl
@[simp] theorem State.requestShutdown_pc : s.requestShutdown.pc = s.pc := rfl
@[simp] theorem State.requestShutdown_sp : s.requestShutdown.sp = s.sp := rfl
@[simp] theorem State.requestShutdown_stack : s.requestShutdown.stack = s.stack := rfl
@[simp] theorem State.requestShutdown_dt : s.requestShutdown.dt = s.dt := rfl
@[simp] theorem State.requestShutdown_st : s.requestShutdown.st = s.st := rfl
@[simp] theorem State.requestShutdown_tone : s.requestShutdown.tone = s.tone := rfl
@[simp] theorem State.requestShutdown_key : s.requestShutdown.key = s.key := rfl
@[simp] theorem State.requestShutdown_fb : s.requestShutdown.fb = s.fb := rfl
@[simp] theorem State.requestShutdown_run : s.requestShutdown.run = runAfterShutdown s.run := rfl
@[simp] theorem State.requestShutdown_pcUpdated : s.requestShutdown.pcUpdated = s.pcUpdated := rfl
@[simp] theorem State.requestShutdown_romEnd : s.requestShutdown.romEnd = s.romEnd := rfl
@[simp] theorem State.requestShutdown_mem : s.requestShutdown.mem = s.mem := rfl
@[simp] theorem State.requestShutdown_cfg : s.requestShutdown.cfg = s.cfg := rfl
@[simp] theorem State.requestShutdown_live : s.requestShutdown.live = s.live := rfl
@[simp] theorem State.requestShutdown_diagLog : s.requestShutdown.diagLog = s.diagLog := rfl
@[simp] theorem State.requestShutdown_outputs : s.requestShutdown.outputs = s.outputs := rfl
@[simp] theorem State.requestShutdown_draws : s.requestShutdown.draws = s.draws := rfl
@[simp] theorem State.requestShutdown_schedule : s.requestShutdown.schedule = s.schedule := rfl

/-! ### tearDown -/

@[simp] theorem State.tearDown_v : s.tearDown.v = s.v := rfl
@[simp] theorem State.tearDown_i : s.tearDown.i = s.i := rfl
@[simp] theorem State.tearDown_pc : s.tearDown.pc = s.pc := rfl
@[simp] theorem State.tearDown_sp : s.tearDown.sp = s.sp := rfl
@[simp] theorem State.tearDown_stack : s.tearDown.stack = s.stack := rfl
@[simp] theorem State.tearDown_dt : s.tearDown.dt = s.dt := rfl
@[simp] theorem State.tearDown_st : s.tearDown.st = s.st := rfl
@[simp] theorem State.tearDown_tone : s.tearDown.tone = s.tone := rfl
@[simp] theorem State.tearDown_key : s.tearDown.key = s.key := rfl
@[simp] theorem State.tearDown_fb : s.tearDown.fb = s.fb := rfl
@[simp] theorem State.tearDown_run : s.tearDown.run = s.run := rfl
@[simp] theorem State.tearDown_pcUpdated : s.tearDown.pcUpdated = s.pcUpdated := rfl
@[simp] theorem State.tearDown_romEnd : s.tearDown.romEnd = s.romEnd := rfl
@[simp] theorem State.tearDown_mem : s.tearDown.mem = s.mem := rfl
@[simp] theorem State.tearDown_cfg : s.tearDown.cfg = s.cfg := rfl
@[simp] theorem State.tearDown_live : s.tearDown.live = false := rfl
@[simp] theorem State.tearDown_diagLog : s.tearDown.diagLog = s.diagLog := rfl
@[simp] theorem State.tearDown_outputs : s.tearDown.outputs = s.outputs := rfl
@[simp] theorem State.tearDown_draws : s.tearDown.draws = s.draws := rfl
@[simp] theorem State.tearDown_schedule : s.tearDown.schedule = s.schedule := rfl

end Sys2Proof.Machine
end

