-- ==== Sys2Proof/Laws/Memory.lean ====
section
/-! SUPPORT. Laws/Memory.lean: reading after writing, the canonical form, and what the memory operations of Machine/Ops.lean
and Machine/Operands.lean do. -/

namespace Sys2Proof.Machine

/-! ## Cells -/

/-- An address below every listed one is not listed. -/
theorem cellAt_eq_none_of_lt {a : Nat} {m : List Host.Cell} (h : ∀ c ∈ m, a < c.1) : cellAt a m = none := by
  induction m with
  | nil => rfl
  | cons c rest ih =>
    have hc := h c (by simp)
    rw [cellAt, if_neg (by omega)]
    exact ih fun d hd => h d (by simp [hd])

/-- A write leaves every other address alone, whatever the list. -/
theorem cellAt_putCell_ne {bg v : Byte} {a b : Nat} (hne : b ≠ a) (m : List Host.Cell) :
    cellAt b (putCell bg a v m) = cellAt b m := by
  induction m with
  | nil =>
    unfold putCell
    split <;> simp [cellAt, hne.symm]
  | cons c rest ih =>
    obtain ⟨d, u⟩ := c
    unfold putCell
    split
    · split <;> simp [cellAt, hne.symm]
    · split
      · next h =>
        subst h
        split <;> simp [cellAt, hne.symm]
      · simp only [cellAt, ih]

/-- In a list of rising addresses, a write is read back. -/
theorem cellAt_putCell_self {bg v : Byte} {a : Nat} {m : List Host.Cell}
    (hs : m.Pairwise fun x y => x.1 < y.1) : (cellAt a (putCell bg a v m)).getD bg = v := by
  induction m with
  | nil =>
    unfold putCell
    split <;> simp_all [cellAt]
  | cons c rest ih =>
    obtain ⟨d, u⟩ := c
    obtain ⟨hlow, hrest⟩ := List.pairwise_cons.mp hs
    unfold putCell
    split
    · next hlt =>
      split
      · next hv =>
        have : cellAt a ((d, u) :: rest) = none :=
          cellAt_eq_none_of_lt fun c hc => by
            rcases List.mem_cons.mp hc with rfl | hc
            · exact hlt
            · have := hlow c hc
              simp only at this
              omega
        simp [this, hv]
      · simp [cellAt]
    · split
      · next heq =>
        subst heq
        split
        · next hv => simp [cellAt_eq_none_of_lt fun c hc => hlow c hc, hv]
        · simp [cellAt]
      · next hne =>
        have hda : ¬ d = a := fun h => hne h.symm
        simp only [cellAt, if_neg hda]
        exact ih hrest

/-- Every address of a written list was listed, or is the one written. -/
theorem mem_putCell {bg v : Byte} {a : Nat} {m : List Host.Cell} {c : Host.Cell} (h : c ∈ putCell bg a v m) :
    c ∈ m ∨ (c = (a, v) ∧ v ≠ bg) := by
  induction m with
  | nil =>
    unfold putCell at h
    split at h <;> simp_all
  | cons d rest ih =>
    obtain ⟨b, u⟩ := d
    unfold putCell at h
    split at h
    · split at h
      · exact .inl h
      · next hv =>
        rcases List.mem_cons.mp h with h | h
        · exact .inr ⟨h, hv⟩
        · exact .inl h
    · split at h
      · split at h
        · exact .inl (by simp [h])
        · next hv =>
          rcases List.mem_cons.mp h with h | h
          · exact .inr ⟨h, hv⟩
          · exact .inl (by simp [h])
      · rcases List.mem_cons.mp h with h | h
        · exact .inl (by simp [h])
        · rcases ih h with h | h
          · exact .inl (by simp [h])
          · exact .inr h

/-- A write keeps the addresses rising. -/
theorem pairwise_putCell {bg v : Byte} {a : Nat} {m : List Host.Cell} (hs : m.Pairwise fun x y => x.1 < y.1) :
    (putCell bg a v m).Pairwise fun x y => x.1 < y.1 := by
  induction m with
  | nil =>
    unfold putCell
    split <;> simp
  | cons d rest ih =>
    obtain ⟨b, u⟩ := d
    obtain ⟨hlow, hrest⟩ := List.pairwise_cons.mp hs
    unfold putCell
    split
    · next hlt =>
      split
      · exact hs
      · refine List.pairwise_cons.mpr ⟨fun c hc => ?_, hs⟩
        rcases List.mem_cons.mp hc with rfl | hc
        · exact hlt
        · exact lt_trans hlt (hlow c hc)
    · next hle =>
      split
      · next heq =>
        subst heq
        split
        · exact hrest
        · exact List.pairwise_cons.mpr ⟨hlow, hrest⟩
      · next hne =>
        refine List.pairwise_cons.mpr ⟨fun c hc => ?_, ih hrest⟩
        rcases mem_putCell hc with hc | ⟨rfl, -⟩
        · exact hlow c hc
        · show b < a
          omega

/-- A write inside the address space keeps the canonical form of memory. -/
theorem putCell_keeps_wf {cfg : Config} {a : Nat} {v : Byte} {m : List Host.Cell} (ha : a < memSize)
    (h : Memory.wf cfg m) : Memory.wf cfg (putCell (memBackground cfg a) a v m) := by
  refine ⟨pairwise_putCell h.1, fun c hc => ?_⟩
  rcases mem_putCell hc with hc | ⟨rfl, hv⟩
  · exact h.2 c hc
  · exact ⟨ha, hv⟩

/-! ## Bytes of the state -/

theorem State.byteAt_def (s : State) (a : Nat) : s.byteAt a = (cellAt a s.mem).getD (memBackground s.cfg a) := rfl

/-- Two states with the same cells and the same configuration read alike. -/
theorem State.byteAt_congr {s t : State} (hm : t.mem = s.mem) (hc : t.cfg = s.cfg) (a : Nat) :
    t.byteAt a = s.byteAt a := by
  simp only [State.byteAt_def, hm, hc]

theorem State.byteAt_putByte_ne {s : State} {a b : Nat} {v : Byte} (h : b ≠ a) :
    (s.putByte a v).byteAt b = s.byteAt b := by
  simp only [State.byteAt_def, State.putByte_mem, State.putByte_cfg, cellAt_putCell_ne h]

theorem State.byteAt_putByte_self {s : State} {a : Nat} {v : Byte} (h : Memory.wf s.cfg s.mem) :
    (s.putByte a v).byteAt a = v := by
  simp only [State.byteAt_def, State.putByte_mem, State.putByte_cfg]
  exact cellAt_putCell_self h.1

theorem State.putByte_keeps_wf {s : State} {a : Nat} {v : Byte} (ha : a < memSize) (h : Memory.wf s.cfg s.mem) :
    Memory.wf (s.putByte a v).cfg (s.putByte a v).mem := putCell_keeps_wf ha h

/-! ## MemRead and MemWrite -/

/-- All that `MemRead` can do (R52): the cell and nothing changed, or a free value, a diagnostic and a draw counted. -/
theorem State.memRead_cases (s : State) (a : Nat) :
    (a < memSize ∧ s.memRead a = (s.byteAt a, s)) ∨
    (memSize ≤ a ∧ s.memRead a =
      (Config.freeOobRead s.draws, (s.diag .memReadOob a).countDraw)) := by
  unfold State.memRead
  split
  · next h => exact .inl ⟨h, rfl⟩
  · next h => exact .inr ⟨Nat.le_of_not_lt h, rfl⟩

/-- A read changes the log, the ports and the count of draws at most (R52). -/
theorem State.memRead_frame (s : State) (a : Nat) :
    Frame { log := true, ports := true, draws := true } s (s.memRead a).2 := by
  rcases s.memRead_cases a with ⟨-, h⟩ | ⟨-, h⟩ <;> rw [h] <;> constructor <;> intros <;> first | rfl | contradiction

theorem State.memRead_pc (s : State) (a : Nat) : (s.memRead a).2.pc = s.pc := by
  rcases s.memRead_cases a with ⟨-, h⟩ | ⟨-, h⟩ <;> simp [h]

theorem State.memRead_pcUpdated (s : State) (a : Nat) : (s.memRead a).2.pcUpdated = s.pcUpdated := by
  rcases s.memRead_cases a with ⟨-, h⟩ | ⟨-, h⟩ <;> simp [h]

theorem State.memRead_mem (s : State) (a : Nat) : (s.memRead a).2.mem = s.mem := by
  rcases s.memRead_cases a with ⟨-, h⟩ | ⟨-, h⟩ <;> simp [h]

/-- All that `MemWrite` can do (R53): the write, or a diagnostic. -/
theorem State.memWrite_cases (s : State) (a : Nat) (v : Byte) :
    (a < memSize ∧ s.memWrite a v = s.putByte a v) ∨ (memSize ≤ a ∧ s.memWrite a v = s.diag .memWriteOob a) := by
  unfold State.memWrite
  split
  · next h => exact .inl ⟨h, rfl⟩
  · next h => exact .inr ⟨Nat.le_of_not_lt h, rfl⟩

/-- A write changes the byte it is given and, out of range, the log and the ports (R53). -/
theorem State.memWrite_frame (s : State) (a : Nat) (v : Byte) :
    Frame { log := true, ports := true, mem := [a] } s (s.memWrite a v) := by
  rcases s.memWrite_cases a v with ⟨-, h⟩ | ⟨-, h⟩ <;> rw [h] <;> constructor <;> intros <;>
    first | rfl | contradiction | (apply State.byteAt_putByte_ne; simp_all)

theorem State.memWrite_pc (s : State) (a : Nat) (v : Byte) : (s.memWrite a v).pc = s.pc := by
  rcases s.memWrite_cases a v with ⟨-, h⟩ | ⟨-, h⟩ <;> rw [h] <;> rfl

theorem State.memWrite_pcUpdated (s : State) (a : Nat) (v : Byte) : (s.memWrite a v).pcUpdated = s.pcUpdated := by
  rcases s.memWrite_cases a v with ⟨-, h⟩ | ⟨-, h⟩ <;> rw [h] <;> rfl

theorem State.memWrite_keeps_wf {s : State} (a : Nat) (v : Byte) (h : Memory.wf s.cfg s.mem) :
    Memory.wf (s.memWrite a v).cfg (s.memWrite a v).mem := by
  rcases s.memWrite_cases a v with ⟨ha, e⟩ | ⟨-, e⟩ <;> rw [e]
  · exact State.putByte_keeps_wf ha h
  · exact h

/-! ## Frames compose -/

theorem Frame.refl (c : MayChange) (s : State) : Frame c s s := by
  constructor <;> intros <;> rfl

theorem Frame.trans {c : MayChange} {s t u : State} (h : Frame c s t) (k : Frame c t u) : Frame c s u where
  regs r hr := (k.regs r hr).trans (h.regs r hr)
  i e := (k.i e).trans (h.i e)
  sp e := (k.sp e).trans (h.sp e)
  stack e := (k.stack e).trans (h.stack e)
  dt e := (k.dt e).trans (h.dt e)
  st e := (k.st e).trans (h.st e)
  tone e := (k.tone e).trans (h.tone e)
  fb e := (k.fb e).trans (h.fb e)
  run e := (k.run e).trans (h.run e)
  key e := (k.key e).trans (h.key e)
  diagLog e := (k.diagLog e).trans (h.diagLog e)
  outputs e := (k.outputs e).trans (h.outputs e)
  draws e := (k.draws e).trans (h.draws e)
  mem a ha := (k.mem a ha).trans (h.mem a ha)
  romEnd := k.romEnd.trans h.romEnd
  cfg := k.cfg.trans h.cfg
  live := k.live.trans h.live
  schedule := k.schedule.trans h.schedule

/-- A frame may be widened. -/
theorem Frame.mono {c d : MayChange} {s t : State} (h : Frame c s t) (regs : c.regs ⊆ d.regs) (mem : c.mem ⊆ d.mem)
    (i : d.i = false → c.i = false) (stack : d.stack = false → c.stack = false)
    (delay : d.delay = false → c.delay = false) (sound : d.sound = false → c.sound = false)
    (fb : d.fb = false → c.fb = false) (run : d.run = false → c.run = false) (key : d.key = false → c.key = false)
    (log : d.log = false → c.log = false) (ports : d.ports = false → c.ports = false)
    (draws : d.draws = false → c.draws = false) : Frame d s t where
  regs r hr := h.regs r fun hc => hr (regs hc)
  i e := h.i (i e)
  sp e := h.sp (stack e)
  stack e := h.stack (stack e)
  dt e := h.dt (delay e)
  st e := h.st (sound e)
  tone e := h.tone (sound e)
  fb e := h.fb (fb e)
  run e := h.run (run e)
  key e := h.key (key e)
  diagLog e := h.diagLog (log e)
  outputs e := h.outputs (ports e)
  draws e := h.draws (draws e)
  mem a ha := h.mem a fun hc => ha (mem hc)
  romEnd := h.romEnd
  cfg := h.cfg
  live := h.live
  schedule := h.schedule

/-! ## Stores of several bytes -/

theorem State.memWrite_dataAddr (s : State) (a : Nat) (v : Byte) (k : Nat) :
    (s.memWrite a v).dataAddr k = s.dataAddr k := by
  unfold State.dataAddr
  rw [(s.memWrite_frame a v).i rfl]

theorem storeBytes_pc (bs : List Byte) (k : Nat) (s : State) : (storeBytes k bs s).pc = s.pc := by
  induction bs generalizing k s with
  | nil => rfl
  | cons b bs ih => rw [storeBytes, ih, State.memWrite_pc]

theorem storeBytes_pcUpdated (bs : List Byte) (k : Nat) (s : State) :
    (storeBytes k bs s).pcUpdated = s.pcUpdated := by
  induction bs generalizing k s with
  | nil => rfl
  | cons b bs ih => rw [storeBytes, ih, State.memWrite_pcUpdated]

/-- A store of n bytes from offset k changes the bytes at I + k .. I + k + n - 1, the log and the ports at most (R53). -/
theorem storeBytes_frame (bs : List Byte) (k : Nat) (s : State) :
    Frame { log := true, ports := true, mem := (List.range' k bs.length).map s.dataAddr } s (storeBytes k bs s) := by
  induction bs generalizing k s with
  | nil => exact Frame.refl _ _
  | cons b bs ih =>
    have h := ih (k + 1) (s.memWrite (s.dataAddr k) b)
    rw [show (s.memWrite (s.dataAddr k) b).dataAddr = s.dataAddr from
      funext fun j => s.memWrite_dataAddr _ _ j] at h
    refine Frame.trans ((s.memWrite_frame (s.dataAddr k) b).mono ?_ ?_ ?_ ?_ ?_ ?_ ?_ ?_ ?_ ?_ ?_ ?_)
      (h.mono ?_ ?_ ?_ ?_ ?_ ?_ ?_ ?_ ?_ ?_ ?_ ?_) <;> simp [List.range'_succ]

theorem storeBytes_keeps_wf {s : State} (bs : List Byte) (k : Nat) (h : Memory.wf s.cfg s.mem) :
    Memory.wf (storeBytes k bs s).cfg (storeBytes k bs s).mem := by
  induction bs generalizing k s with
  | nil => exact h
  | cons b bs ih => exact ih (k + 1) (State.memWrite_keeps_wf _ _ h)

theorem putBytes_keeps_wf {s : State} (bs : List Byte) (a : Nat) (ha : a + bs.length ≤ memSize)
    (h : Memory.wf s.cfg s.mem) : Memory.wf (putBytes a bs s).cfg (putBytes a bs s).mem := by
  induction bs generalizing a s with
  | nil => exact h
  | cons b bs ih =>
    rw [List.length_cons] at ha
    exact ih (a + 1) (by omega) (State.putByte_keeps_wf (by omega) h)

/-- A raw store of bytes changes memory and nothing else. -/
theorem putBytes_eq (bs : List Byte) (a : Nat) (s : State) : putBytes a bs s = { s with mem := (putBytes a bs s).mem } := by
  induction bs generalizing a s with
  | nil => rfl
  | cons b bs ih => rw [putBytes, ih]; rfl

/-! ## Loads of several registers -/

theorem State.loadReg_frame (s : State) (r : Reg) :
    Frame { regs := [r], log := true, ports := true, draws := true } s (s.loadReg r) := by
  refine Frame.trans ((s.memRead_frame (s.dataAddr r.val)).mono ?_ ?_ ?_ ?_ ?_ ?_ ?_ ?_ ?_ ?_ ?_ ?_) ?_ <;> try simp
  constructor <;> intros <;> first | rfl | skip
  next q hq =>
    simp only [State.loadReg, State.reg, State.setReg_v]
    rw [Vector.getElem_set_ne]
    simpa [Fin.ext_iff, eq_comm] using hq

theorem State.loadReg_mem (s : State) (r : Reg) : (s.loadReg r).mem = s.mem := s.memRead_mem _

theorem loadRegs_frame (rs : List Reg) (s : State) :
    Frame { regs := rs, log := true, ports := true, draws := true } s (loadRegs rs s) := by
  induction rs generalizing s with
  | nil => exact Frame.refl _ _
  | cons r rs ih =>
    refine Frame.trans ((s.loadReg_frame r).mono ?_ ?_ ?_ ?_ ?_ ?_ ?_ ?_ ?_ ?_ ?_ ?_)
      ((ih (s.loadReg r)).mono ?_ ?_ ?_ ?_ ?_ ?_ ?_ ?_ ?_ ?_ ?_ ?_) <;> simp

theorem loadRegs_mem (rs : List Reg) (s : State) : (loadRegs rs s).mem = s.mem := by
  induction rs generalizing s with
  | nil => rfl
  | cons r rs ih => rw [loadRegs, ih, State.loadReg_mem]

theorem loadRegs_pc (rs : List Reg) (s : State) : (loadRegs rs s).pc = s.pc := by
  induction rs generalizing s with
  | nil => rfl
  | cons r rs ih => rw [loadRegs, ih]; exact s.memRead_pc _

theorem loadRegs_pcUpdated (rs : List Reg) (s : State) : (loadRegs rs s).pcUpdated = s.pcUpdated := by
  induction rs generalizing s with
  | nil => rfl
  | cons r rs ih => rw [loadRegs, ih]; exact s.memRead_pcUpdated _

/-! ## Registers -/

theorem State.reg_setReg (s : State) (r q : Reg) (b : Byte) :
    (s.setReg r b).reg q = if r = q then b else s.reg q := by
  simp only [State.reg, State.setReg_v, Vector.getElem_set, Fin.ext_iff]

@[simp] theorem State.reg_setReg_self (s : State) (r : Reg) (b : Byte) : (s.setReg r b).reg r = b := by
  simp [State.reg_setReg]

theorem State.reg_setReg_ne (s : State) {r q : Reg} (b : Byte) (h : r ≠ q) : (s.setReg r b).reg q = s.reg q := by
  simp [State.reg_setReg, h]

/-- Reset memory lists nothing, so it has the canonical form. -/
theorem reset_memory_wf : Memory.wf State.reset.cfg State.reset.mem := ⟨List.Pairwise.nil, by simp [State.reset, State.initial]⟩

end Sys2Proof.Machine
end

