-- ==== Sys2Proof/Laws/Framebuffer.lean ====
section
/-! SUPPORT. Laws/Framebuffer.lean: what flipping a pixel, drawing a row and drawing a sprite do. -/

namespace Sys2Proof.Machine

/-! ## Pixels and shape -/

theorem flipPixel_length (fb : List (List Bool)) (x y : Nat) : (flipPixel fb x y).length = fb.length := by
  simp [flipPixel]

theorem flipPixel_keeps_shape {c : Config} {fb : List (List Bool)} (x y : Nat) (h : FbShape c fb) :
    FbShape c (flipPixel fb x y) := by
  refine ⟨by rw [flipPixel_length]; exact h.1, fun row hrow => ?_⟩
  obtain ⟨n, hn, rfl⟩ := List.getElem_of_mem hrow
  rw [flipPixel_length] at hn
  have := h.2 (fb[n]) (List.getElem_mem hn)
  simp only [flipPixel, List.getElem_modify]
  split <;> simp [this]

/-- In an array of the right shape, a flip turns the one pixel over and leaves every other alone. -/
theorem pixelOf_flipPixel {c : Config} {fb : List (List Bool)} (h : FbShape c fb) {px py : Nat} (hx : px < c.displayW)
    (hy : py < c.displayH) (x y : Nat) :
    pixelOf (flipPixel fb px py) x y = (pixelOf fb x y ^^ decide (x = px ∧ y = py)) := by
  have hlen : py < fb.length := by rw [h.1]; exact hy
  have hrow : px < (fb[py]).length := by rw [h.2 _ (List.getElem_mem hlen)]; exact hx
  unfold pixelOf flipPixel
  by_cases e : y = py
  · subst e
    by_cases e' : x = px
    · subst e'
      simp [hlen, hrow]
    · simp [hlen, e', Ne.symm e']
  · simp [e, Ne.symm e]

theorem drawColumns_keeps_shape {c : Config} (w h x y : Nat) (b : Byte) (js : List Nat) {fb : List (List Bool)}
    (hf : FbShape c fb) : FbShape c (drawColumns w h x y b js fb).2 := by
  induction js generalizing fb with
  | nil => exact hf
  | cons j js ih =>
    rw [drawColumns]
    split
    · exact ih (flipPixel_keeps_shape _ _ hf)
    · exact ih hf

theorem drawRow_keeps_shape {c : Config} (w h x y : Nat) (b : Byte) {fb : List (List Bool)} (hf : FbShape c fb) :
    FbShape c (drawRow w h x y b fb).2 := drawColumns_keeps_shape _ _ _ _ _ _ hf

theorem clear_shape (c : Config) : FbShape c (List.replicate c.displayH (List.replicate c.displayW false)) := by
  refine ⟨by simp, fun row hrow => ?_⟩
  rw [List.eq_of_mem_replicate hrow]
  simp

theorem pixelOf_clear (w h x y : Nat) : pixelOf (List.replicate h (List.replicate w false)) x y = false := by
  unfold pixelOf
  rw [List.getD_eq_getElem?_getD, List.getD_eq_getElem?_getD, List.getElem?_replicate]
  split
  · rw [Option.getD_some, List.getElem?_replicate]
    split <;> rfl
  · simp

/-! ## Frames of the controller's operations -/

theorem State.fbDrawRow_frame (s : State) (x y : Nat) (b : Byte) :
    Frame { fb := true, ports := true } s (s.fbDrawRow x y b).2 := by
  constructor <;> intros <;> first | rfl | contradiction

theorem State.drawSpriteRow_frame (s : State) (x0 y0 row : Nat) :
    Frame { fb := true, log := true, ports := true, draws := true } s (s.drawSpriteRow x0 y0 row).2 := by
  refine Frame.trans ((s.memRead_frame (s.dataAddr row)).mono ?_ ?_ ?_ ?_ ?_ ?_ ?_ ?_ ?_ ?_ ?_ ?_)
    ((State.fbDrawRow_frame (s.memRead (s.dataAddr row)).2 x0 (y0 + row) _).mono ?_ ?_ ?_ ?_ ?_ ?_ ?_ ?_ ?_ ?_ ?_ ?_) <;>
    simp

/-- A sprite changes FB, the log, the ports and the count of draws at most (R181). -/
theorem drawSprite_frame (x0 y0 n row : Nat) (s : State) :
    Frame { fb := true, log := true, ports := true, draws := true } s (drawSprite x0 y0 n row s).2 := by
  induction n generalizing row s with
  | zero => exact Frame.refl _ _
  | succ n ih => exact (s.drawSpriteRow_frame x0 y0 row).trans (ih (row + 1) _)

theorem State.drawSpriteRow_mem (s : State) (x0 y0 row : Nat) : (s.drawSpriteRow x0 y0 row).2.mem = s.mem :=
  s.memRead_mem _

theorem drawSprite_mem (x0 y0 n row : Nat) (s : State) : (drawSprite x0 y0 n row s).2.mem = s.mem := by
  induction n generalizing row s with
  | zero => rfl
  | succ n ih => exact (ih (row + 1) _).trans (s.drawSpriteRow_mem x0 y0 row)

theorem drawSprite_pc (x0 y0 n row : Nat) (s : State) : (drawSprite x0 y0 n row s).2.pc = s.pc := by
  induction n generalizing row s with
  | zero => rfl
  | succ n ih => exact (ih (row + 1) _).trans (s.memRead_pc _)

theorem drawSprite_pcUpdated (x0 y0 n row : Nat) (s : State) : (drawSprite x0 y0 n row s).2.pcUpdated = s.pcUpdated := by
  induction n generalizing row s with
  | zero => rfl
  | succ n ih => exact (ih (row + 1) _).trans (s.memRead_pcUpdated _)

theorem State.drawSpriteRow_keeps_shape {s : State} (x0 y0 row : Nat) (h : FbShape s.cfg s.fb) :
    FbShape (s.drawSpriteRow x0 y0 row).2.cfg (s.drawSpriteRow x0 y0 row).2.fb := by
  have hf := s.memRead_frame (s.dataAddr row)
  have hc : (s.memRead (s.dataAddr row)).2.cfg = s.cfg := hf.cfg
  have hb : (s.memRead (s.dataAddr row)).2.fb = s.fb := hf.fb rfl
  refine drawRow_keeps_shape _ _ _ _ _ ?_
  rw [hb]
  exact hc ▸ h

theorem drawSprite_keeps_shape {s : State} (x0 y0 n row : Nat) (h : FbShape s.cfg s.fb) :
    FbShape (drawSprite x0 y0 n row s).2.cfg (drawSprite x0 y0 n row s).2.fb := by
  induction n generalizing row s with
  | zero => exact h
  | succ n ih => exact ih (row + 1) (State.drawSpriteRow_keeps_shape x0 y0 row h)

end Sys2Proof.Machine
end

