-- ==== Sys2Proof/Laws/Exec.lean ====
section
/-! SUPPORT. Laws/Exec.lean: what the stack, the keys and the ends of an instruction do, said once. -/

namespace Sys2Proof.Machine

/-! ## The ends of an instruction -/

theorem complete_eq (s : State) : complete s = .next s.commonAdvance := rfl

theorem hold_eq (s : State) : hold s = .next s := rfl

/-- The common advance moves PC by 2 where no control transfer was made (R96). -/
theorem State.commonAdvance_pc_of_not_updated {s : State} (h : s.pcUpdated = false) : s.commonAdvance.pc = s.pc + 2 := by
  simp [h]

/-- A skip whose condition holds ends at the address plus 4, one whose condition fails at the address plus 2 (R97). -/
theorem State.skipIf_commonAdvance_pc {s : State} (c : Bool) (h : s.pcUpdated = false) :
    (s.skipIf c).commonAdvance.pc = if c then s.pc + 4 else s.pc + 2 := by
  cases c
  · simp [h]
  · simp only [State.commonAdvance_pc, State.skipIf_pcUpdated, State.skipIf_pc, h, if_true, Bool.false_eq_true, if_false]
    bv_omega

/-- The common advance changes PC alone (R96). -/
theorem State.commonAdvance_frame (s : State) : Frame {} s s.commonAdvance := by
  constructor <;> intros <;> rfl

/-- What an instruction's effect leaves unchanged, its common advance leaves unchanged too. -/
theorem Frame.advance {c : MayChange} {s t : State} (h : Frame c s t) : Frame c s t.commonAdvance where
  regs := h.regs
  i := h.i
  sp := h.sp
  stack := h.stack
  dt := h.dt
  st := h.st
  tone := h.tone
  fb := h.fb
  run := h.run
  key := h.key
  diagLog := h.diagLog
  outputs := h.outputs
  draws := h.draws
  mem := h.mem
  romEnd := h.romEnd
  cfg := h.cfg
  live := h.live
  schedule := h.schedule

/-! ## Frames of the register, timer and port updates -/

theorem State.setReg_frame (s : State) (r : Reg) (b : Byte) : Frame { regs := [r] } s (s.setReg r b) := by
  constructor <;> intros <;> try rfl
  next q hq => exact s.reg_setReg_ne b fun e => hq (by simp [e])

theorem State.resultThenFlag_frame (s : State) (x : Reg) (a f : Byte) :
    Frame { regs := [x, vF] } s (s.resultThenFlag x a f) := by
  refine Frame.trans ((s.setReg_frame x a).mono ?_ ?_ ?_ ?_ ?_ ?_ ?_ ?_ ?_ ?_ ?_ ?_)
    ((State.setReg_frame _ vF f).mono ?_ ?_ ?_ ?_ ?_ ?_ ?_ ?_ ?_ ?_ ?_ ?_) <;> simp

theorem State.flagThenResult_frame (s : State) (x : Reg) (f g : Byte → Byte) :
    Frame { regs := [x, vF] } s (s.flagThenResult x f g) := by
  refine Frame.trans ((s.setReg_frame vF _).mono ?_ ?_ ?_ ?_ ?_ ?_ ?_ ?_ ?_ ?_ ?_ ?_)
    ((State.setReg_frame _ x _).mono ?_ ?_ ?_ ?_ ?_ ?_ ?_ ?_ ?_ ?_ ?_ ?_) <;> simp

theorem State.shiftWithFlag_frame (s : State) (x : Reg) (f g : Byte → Byte) :
    Frame { regs := [x, vF] } s (s.shiftWithFlag x f g) := by
  unfold State.shiftWithFlag
  split
  · exact s.resultThenFlag_frame x _ _
  · exact s.flagThenResult_frame x f g

theorem State.shiftWithFlag_pc (s : State) (x : Reg) (f g : Byte → Byte) : (s.shiftWithFlag x f g).pc = s.pc := by
  unfold State.shiftWithFlag
  split <;> rfl

theorem State.shiftWithFlag_pcUpdated (s : State) (x : Reg) (f g : Byte → Byte) :
    (s.shiftWithFlag x f g).pcUpdated = s.pcUpdated := by
  unfold State.shiftWithFlag
  split <;> rfl

theorem State.setI_frame (s : State) (w : Word) : Frame { i := true } s (s.setI w) := by
  constructor <;> intros <;> first | rfl | contradiction

theorem State.setDelay_frame (s : State) (b : Byte) : Frame { delay := true } s (s.setDelay b) := by
  constructor <;> intros <;> first | rfl | contradiction

theorem State.setSound_frame (s : State) (b : Byte) : Frame { sound := true, ports := true } s (s.setSound b) := by
  constructor <;> intros <;> first | rfl | contradiction

theorem State.diag_frame (s : State) (c : DiagCode) (n : Nat) : Frame { log := true, ports := true } s (s.diag c n) := by
  constructor <;> intros <;> first | rfl | contradiction

theorem State.jumpTo_frame (s : State) (w : Word) : Frame {} s (s.jumpTo w) := by
  constructor <;> intros <;> rfl

theorem State.skipIf_frame (s : State) (c : Bool) : Frame {} s (s.skipIf c) := by
  constructor <;> intros <;> rfl

theorem State.fbClear_frame (s : State) : Frame { fb := true, ports := true } s s.fbClear := by
  constructor <;> intros <;> first | rfl | contradiction

/-- A fatal error changes RUN and the error port alone (R222). -/
theorem State.raiseFatalAtInstr_frame (s : State) (c : FatalCode) :
    Frame { run := true, ports := true } s (s.raiseFatalAtInstr c) := by
  constructor <;> intros <;> first | rfl | contradiction

/-! ## The call stack (R27) -/

/-- All that a push can do: the entry written and counted, or Fatal(STACK_OVERFLOW). -/
theorem State.push_cases (s : State) (w : Word) (k : State → Answer) :
    (∃ h : s.sp.val < stackDepth, s.push w k =
      k { s with stack := s.stack.set s.sp.val w, sp := ⟨s.sp.val + 1, Nat.succ_lt_succ h⟩ }) ∨
    (s.sp.val = stackDepth ∧ s.push w k = .next (s.raiseFatalAtInstr .stackOverflow)) := by
  unfold State.push
  split
  · next h => exact .inl ⟨h, rfl⟩
  · next h => exact .inr ⟨by have := s.sp.isLt; simp only [stackDepth] at *; omega, rfl⟩

/-- All that a pop can do: the entry read and no longer counted, or Fatal(STACK_UNDERFLOW). -/
theorem State.pop_cases (s : State) (k : Word → State → Answer) :
    (0 < s.sp.val ∧ s.pop k = k (s.stackAt (s.sp.val - 1))
      { s with sp := ⟨s.sp.val - 1, Nat.lt_of_le_of_lt (Nat.sub_le _ _) s.sp.isLt⟩ }) ∨
    (s.sp.val = 0 ∧ s.pop k = .next (s.raiseFatalAtInstr .stackUnderflow)) := by
  unfold State.pop
  split
  · next h => exact .inr ⟨h, rfl⟩
  · next h => exact .inl ⟨Nat.pos_of_ne_zero h, rfl⟩

/-! ## Keys (R205, R206) -/

/-- All that the key test can do: the key, or "not pressed" with a KEY_RANGE diagnostic. -/
theorem State.keyPressed_cases (s : State) (b : Byte) :
    (b.toNat ≤ 0xF ∧ s.keyPressed b = (s.keyDown b.toNat, s)) ∨
    (0xF < b.toNat ∧ s.keyPressed b = (false, s.diag .keyRange b.toNat)) := by
  unfold State.keyPressed
  split
  · next h => exact .inl ⟨h, rfl⟩
  · next h => exact .inr ⟨Nat.lt_of_not_le h, rfl⟩

/-- The lowest pressed key is down, and no lower one is (R205). -/
theorem State.lowestKey_eq_some {s : State} {k : Nat} (h : s.lowestKey = some k) :
    k < 16 ∧ s.keyDown k = true ∧ ∀ j < k, s.keyDown j = false := by
  unfold State.lowestKey at h
  obtain ⟨hk, n, hn, hget, hlow⟩ := List.find?_eq_some_iff_getElem.mp h
  simp only [List.length_range, List.getElem_range] at hn hget hlow
  subst hget
  exact ⟨hn, hk, fun j hj => by simpa using hlow j hj⟩

/-- There is no lowest pressed key exactly when no key is down (R205). -/
theorem State.lowestKey_eq_none {s : State} : s.lowestKey = none ↔ ∀ k < 16, s.keyDown k = false := by
  simp [State.lowestKey, List.find?_eq_none]

end Sys2Proof.Machine
end

