-- ==== Sys2Proof/Laws/Step.lean ====
section
/-! SUPPORT. Laws/Step.lean: what a step can do, said once: of the block (R240, R265), of the CPU agent (R90 to R95); and
that a reset and the placing of a program word keep memory canonical. -/

namespace Sys2Proof.Machine

/-! ## The block's step -/

/-- A block that can take its next agent's step takes it. -/
theorem step_of_live {s : State} (h : s.live = true) :
    step s = agentStep { s with schedule := s.schedule.tail } s.nextAgent := by
  simp [step, scheduledStep, State.blockStep, h]

/-- A construction needs no live block (R260, R265). -/
theorem step_of_load {s : State} {rom : RomSource} (h : s.nextAgent = .host (.load rom)) :
    step s = .next (State.load { s with schedule := s.schedule.tail } rom) := by
  simp [step, scheduledStep, State.blockStep, h, AgentStep.constructs, agentStep, State.hostStep]

/-- All that a step can do: the next agent's step, or the fault of a torn-down block. -/
theorem step_cases (s : State) :
    (step s = agentStep { s with schedule := s.schedule.tail } s.nextAgent ∧
      (s.live = true ∨ ∃ rom, s.nextAgent = .host (.load rom))) ∨
    (step s = .fault .tornDown ∧ s.live = false ∧ ∀ rom, s.nextAgent ≠ .host (.load rom)) := by
  by_cases hl : s.live = true
  · exact .inl ⟨step_of_live hl, .inl hl⟩
  · have hl' : s.live = false := by simpa using hl
    cases ha : s.nextAgent with
    | cpu => exact .inr (by simp [step, scheduledStep, State.blockStep, hl', ha, AgentStep.constructs])
    | delayTick => exact .inr (by simp [step, scheduledStep, State.blockStep, hl', ha, AgentStep.constructs])
    | soundTick => exact .inr (by simp [step, scheduledStep, State.blockStep, hl', ha, AgentStep.constructs])
    | host h =>
      cases h with
      | load rom => exact .inl ⟨step_of_load ha, .inr ⟨rom, rfl⟩⟩
      | setKey k p => exact .inr (by simp [step, scheduledStep, State.blockStep, hl', ha, AgentStep.constructs])
      | shutdown => exact .inr (by simp [step, scheduledStep, State.blockStep, hl', ha, AgentStep.constructs])
      | teardown => exact .inr (by simp [step, scheduledStep, State.blockStep, hl', ha, AgentStep.constructs])

/-! ## The CPU agent's step -/

/-- A CPU step of an engine that is not running changes nothing (R90, R34). -/
theorem cpuStep_of_stopped {s : State} (h : s.run ≠ .running) : cpuStep s = .next s := by
  unfold cpuStep
  cases hr : s.run with
  | running => exact absurd hr h
  | idle => rfl
  | halted c => rfl
  | shutdown => rfl

theorem cpuStep_of_running {s : State} (h : s.run = .running) : cpuStep s = cycle s := by
  simp [cpuStep, h]

/-- All that a CPU step of a running engine can do (R91, R92, R94, R76). -/
theorem cycle_cases (s : State) :
    (s.romEnd < s.pc.toNat + 2 ∧ cycle s = .next { s with run := .idle }) ∨
    (s.pc.toNat + 2 ≤ s.romEnd ∧ 0xFFF < s.pc.toNat + 1 ∧ cycle s = .next (s.raiseFatal .fetchOob none)) ∨
    (s.pc.toNat + 2 ≤ s.romEnd ∧ s.pc.toNat + 1 ≤ 0xFFF ∧
      ((∃ i, decode s.cfg.strictDecode s.fetchWord = .instr i ∧ cycle s = exec i { s with pcUpdated := false }) ∨
        (∃ e, decode s.cfg.strictDecode s.fetchWord = .reject e ∧
          cycle s = execUnknown s.fetchWord { s with pcUpdated := false }))) := by
  by_cases hi : s.pc.toNat + 2 > s.romEnd
  · exact .inl ⟨hi, by rw [cycle, if_pos hi]⟩
  · by_cases hf : s.pc.toNat + 1 > 0xFFF
    · exact .inr (.inl ⟨by omega, hf, by rw [cycle, if_neg hi, if_pos hf]⟩)
    · refine .inr (.inr ⟨by omega, by omega, ?_⟩)
      have hc : cycle s = decodeAndExecute s.fetchWord s := by rw [cycle, if_neg hi, if_neg hf]
      cases hd : decode s.cfg.strictDecode s.fetchWord with
      | instr i => exact .inl ⟨i, rfl, by rw [hc]; simp only [decodeAndExecute, hd]⟩
      | reject e => exact .inr ⟨e, rfl, by rw [hc]; simp only [decodeAndExecute, hd]⟩

/-! ## The reset -/

/-- What ROM acceptance answers with: an image of at most ROM_MAX bytes (R262). -/
theorem checkRom_ok {c : Config} {rom : RomSource} {bytes : List Byte} (h : checkRom c rom = .ok bytes) :
    rom = .image bytes ∧ bytes.length ≤ romMax := by
  cases rom with
  | unreadable => exact absurd h (by simp [checkRom])
  | image b =>
    by_cases hl : romMax < b.length
    · simp [checkRom, hl] at h
    · by_cases ho : (c.romIntegrityCheck && decide (b.length % 2 = 1)) = true
      · simp only [checkRom, hl, ho, if_true, if_false] at h
        cases h
      · simp only [checkRom, hl, ho, if_false] at h
        cases h
        exact ⟨rfl, by omega⟩

/-- All that a reset can do: the new state, or the surfaced error and no VM (R261, R224). -/
theorem State.load_cases (s : State) (rom : RomSource) :
    (∃ bytes, rom = .image bytes ∧ bytes.length ≤ romMax ∧ s.load rom = s.resetWith bytes) ∨
    (∃ e, checkRom s.cfg rom = .error e ∧
      s.load rom = { s with live := false, outputs := s.outputs ++ [.error (.construction e)] }) := by
  cases h : checkRom s.cfg rom with
  | ok bytes => exact .inl ⟨bytes, (checkRom_ok h).1, (checkRom_ok h).2, by simp [State.load, h]⟩
  | error e => exact .inr ⟨e, rfl, by simp [State.load, h, State.tearDown, State.emit]⟩

/-- The loaded memory is in canonical form, whatever memory was before. -/
theorem State.resetWith_keeps_wf (s : State) {bytes : List Byte} (h : bytes.length ≤ romMax) :
    Memory.wf (s.resetWith bytes).cfg (s.resetWith bytes).mem := by
  have hb : progBase + bytes.length ≤ memSize := by
    simp only [progBase, memSize, romMax] at *
    omega
  exact putBytes_keeps_wf bytes progBase hb ⟨List.Pairwise.nil, fun x hx => absurd hx List.not_mem_nil⟩

/-- A reset keeps memory canonical. -/
theorem State.load_keeps_wf {s : State} (rom : RomSource) (h : Memory.wf s.cfg s.mem) :
    Memory.wf (s.load rom).cfg (s.load rom).mem := by
  rcases s.load_cases rom with ⟨bytes, _, hl, e⟩ | ⟨_, _, e⟩
  · rw [e]; exact s.resetWith_keeps_wf hl
  · rw [e]; exact h

theorem State.fetchHome_fits (s : State) : s.fetchHome.toNat + 2 ≤ memSize := by
  unfold State.fetchHome
  split
  · assumption
  · decide

/-- The placing of a program word keeps memory canonical. -/
theorem State.placeWord_keeps_wf {s : State} (w : Word) (h : Memory.wf s.cfg s.mem) :
    Memory.wf (s.placeWord w).cfg (s.placeWord w).mem := by
  exact putBytes_keeps_wf _ _ (by simpa using s.fetchHome_fits) h

end Sys2Proof.Machine
end

