-- ==== Sys2Proof/Laws/Executions.lean ====
section
/-! SUPPORT. Laws/Executions.lean: the small lemmas of infinite executions: which step an agent takes, what a tick does to its
counter, and that in a fair execution an enabled timer ticks again. -/

namespace Sys2Proof.Machine

theorem State.blockStep_of_live {s : State} (h : s.live = true) (a : AgentStep) : s.blockStep a = agentStep s a := by
  simp [State.blockStep, h]

/-- A schedule's head is the next step, its tail the schedule that is left. -/
theorem step_schedule_cons (s : State) (a : AgentStep) (q : List AgentStep) :
    step { s with schedule := a :: q } = State.blockStep { s with schedule := q } a := rfl

theorem AgentStep.agent_eq_cpu {a : AgentStep} : a.agent = .cpu ↔ a = .cpu := by
  cases a <;> simp [AgentStep.agent]

theorem AgentStep.agent_eq_delayTimer {a : AgentStep} : a.agent = .delayTimer ↔ a = .delayTick := by
  cases a <;> simp [AgentStep.agent]

theorem AgentStep.agent_eq_soundTimer {a : AgentStep} : a.agent = .soundTimer ↔ a = .soundTick := by
  cases a <;> simp [AgentStep.agent]

/-- An enabled delay tick lowers DT by one (R231). -/
theorem State.delayTick_dt_toNat {s : State} (h : s.dt ≠ 0) : s.delayTick.dt.toNat + 1 = s.dt.toNat := by
  simp only [State.delayTick, if_neg h]
  bv_omega

/-- An enabled sound tick lowers ST by one (R232). -/
theorem State.soundTick_st_toNat {s : State} (h : s.st ≠ 0) : s.soundTick.st.toNat + 1 = s.st.toNat := by
  simp only [State.soundTick, if_neg h]
  bv_omega

/-- In a weakly fair execution a DT that stays nonzero is ticked again (R240). -/
theorem WeaklyFair.delayTick {u : Nat → State} {a : Nat → AgentStep} (h : WeaklyFair u a) {n : Nat}
    (hs : ∀ m, n ≤ m → (u m).live = true ∧ (u m).dt ≠ 0) (k : Nat) : ∃ m, k ≤ m ∧ a m = .delayTick := by
  obtain ⟨m, hm, ha⟩ := h .delayTimer (by decide) n hs k
  exact ⟨m, hm, AgentStep.agent_eq_delayTimer.mp ha⟩

/-- In a weakly fair execution an ST that stays nonzero is ticked again (R240). -/
theorem WeaklyFair.soundTick {u : Nat → State} {a : Nat → AgentStep} (h : WeaklyFair u a) {n : Nat}
    (hs : ∀ m, n ≤ m → (u m).live = true ∧ (u m).st ≠ 0) (k : Nat) : ∃ m, k ≤ m ∧ a m = .soundTick := by
  obtain ⟨m, hm, ha⟩ := h .soundTimer (by decide) n hs k
  exact ⟨m, hm, AgentStep.agent_eq_soundTimer.mp ha⟩

end Sys2Proof.Machine
end

