-- ==== Sys2Proof/Laws/PerInstr.lean ====
section
/-! SUPPORT. Laws/PerInstr.lean: statements for all instructions, one lemma for each constructor. Family TableRow: the word
an instruction is encoded as stands in its own row of the opcode map (R80), under both decoder modes. -/

namespace Sys2Proof.Laws.TableRow

/-- "a word w selects the row when (w & mask) = match" (R80), for the mask and for the strict mask. -/
def Statement (i : Instr) : Prop :=
  encode i &&& (rowOf i).mask = (rowOf i).bits ∧ encode i &&& (rowOf i).strictMask = (rowOf i).bits

theorem layoutNNN_row (op : BitVec 4) (nnn : BitVec 12) : layoutNNN op nnn &&& 0xF000 = placeNibble op 12 := by
  apply BitVec.eq_of_getLsbD_eq
  intro k hk
  simp only [layoutNNN, placeNibble]
  interval_cases k <;> simp

theorem layoutXNN_row (op : BitVec 4) (x : Reg) (nn : Byte) :
    layoutXNN op x nn &&& 0xF000 = placeNibble op 12 ∧ layoutXNN op x nn &&& 0xF0FF = placeNibble op 12 ||| zextByte nn := by
  constructor <;>
  · apply BitVec.eq_of_getLsbD_eq
    intro k hk
    simp only [layoutXNN, placeNibble]
    interval_cases k <;> simp

theorem layoutXYN_row (op : BitVec 4) (x y : Reg) (n : BitVec 4) :
    layoutXYN op x y n &&& 0xF000 = placeNibble op 12 ∧
      layoutXYN op x y n &&& 0xF00F = placeNibble op 12 ||| placeNibble n 0 := by
  constructor <;>
  · apply BitVec.eq_of_getLsbD_eq
    intro k hk
    simp only [layoutXYN, placeNibble]
    interval_cases k <;> simp

theorem op00E0 : Statement .op00E0 := ⟨by decide, by decide⟩
theorem op00EE : Statement .op00EE := ⟨by decide, by decide⟩
theorem op1NNN (nnn : BitVec 12) : Statement (.op1NNN nnn) :=
  ⟨layoutNNN_row _ _, layoutNNN_row _ _⟩
theorem op2NNN (nnn : BitVec 12) : Statement (.op2NNN nnn) :=
  ⟨layoutNNN_row _ _, layoutNNN_row _ _⟩
theorem op3XNN (x : Reg) (nn : Byte) : Statement (.op3XNN x nn) :=
  ⟨(layoutXNN_row _ _ _).1, (layoutXNN_row _ _ _).1⟩
theorem op4XNN (x : Reg) (nn : Byte) : Statement (.op4XNN x nn) :=
  ⟨(layoutXNN_row _ _ _).1, (layoutXNN_row _ _ _).1⟩
theorem op5XY0 (x y : Reg) : Statement (.op5XY0 x y) :=
  ⟨(layoutXYN_row _ _ _ _).1, (layoutXYN_row _ _ _ _).2⟩
theorem op9XY0 (x y : Reg) : Statement (.op9XY0 x y) :=
  ⟨(layoutXYN_row _ _ _ _).1, (layoutXYN_row _ _ _ _).2⟩
theorem op6XNN (x : Reg) (nn : Byte) : Statement (.op6XNN x nn) :=
  ⟨(layoutXNN_row _ _ _).1, (layoutXNN_row _ _ _).1⟩
theorem op7XNN (x : Reg) (nn : Byte) : Statement (.op7XNN x nn) :=
  ⟨(layoutXNN_row _ _ _).1, (layoutXNN_row _ _ _).1⟩
theorem op8XY0 (x y : Reg) : Statement (.op8XY0 x y) :=
  ⟨(layoutXYN_row _ _ _ _).2, (layoutXYN_row _ _ _ _).2⟩
theorem op8XY1 (x y : Reg) : Statement (.op8XY1 x y) :=
  ⟨(layoutXYN_row _ _ _ _).2, (layoutXYN_row _ _ _ _).2⟩
theorem op8XY2 (x y : Reg) : Statement (.op8XY2 x y) :=
  ⟨(layoutXYN_row _ _ _ _).2, (layoutXYN_row _ _ _ _).2⟩
theorem op8XY3 (x y : Reg) : Statement (.op8XY3 x y) :=
  ⟨(layoutXYN_row _ _ _ _).2, (layoutXYN_row _ _ _ _).2⟩
theorem op8XY4 (x y : Reg) : Statement (.op8XY4 x y) :=
  ⟨(layoutXYN_row _ _ _ _).2, (layoutXYN_row _ _ _ _).2⟩
theorem op8XY5 (x y : Reg) : Statement (.op8XY5 x y) :=
  ⟨(layoutXYN_row _ _ _ _).2, (layoutXYN_row _ _ _ _).2⟩
theorem op8XY6 (x : Reg) : Statement (.op8XY6 x) :=
  ⟨(layoutXYN_row _ _ _ _).2, (layoutXYN_row _ _ _ _).2⟩
theorem op8XY7 (x y : Reg) : Statement (.op8XY7 x y) :=
  ⟨(layoutXYN_row _ _ _ _).2, (layoutXYN_row _ _ _ _).2⟩
theorem op8XYE (x : Reg) : Statement (.op8XYE x) :=
  ⟨(layoutXYN_row _ _ _ _).2, (layoutXYN_row _ _ _ _).2⟩
theorem opANNN (nnn : BitVec 12) : Statement (.opANNN nnn) :=
  ⟨layoutNNN_row _ _, layoutNNN_row _ _⟩
theorem opBNNN (nnn : BitVec 12) : Statement (.opBNNN nnn) :=
  ⟨layoutNNN_row _ _, layoutNNN_row _ _⟩
theorem opCXNN (x : Reg) (nn : Byte) : Statement (.opCXNN x nn) :=
  ⟨(layoutXNN_row _ _ _).1, (layoutXNN_row _ _ _).1⟩
theorem opDXYN (x y : Reg) (n : BitVec 4) : Statement (.opDXYN x y n) :=
  ⟨(layoutXYN_row _ _ _ _).1, (layoutXYN_row _ _ _ _).1⟩
theorem opEX9E (x : Reg) : Statement (.opEX9E x) :=
  ⟨(layoutXNN_row _ _ _).2, (layoutXNN_row _ _ _).2⟩
theorem opEXA1 (x : Reg) : Statement (.opEXA1 x) :=
  ⟨(layoutXNN_row _ _ _).2, (layoutXNN_row _ _ _).2⟩
theorem opFX07 (x : Reg) : Statement (.opFX07 x) :=
  ⟨(layoutXNN_row _ _ _).2, (layoutXNN_row _ _ _).2⟩
theorem opFX0A (x : Reg) : Statement (.opFX0A x) :=
  ⟨(layoutXNN_row _ _ _).2, (layoutXNN_row _ _ _).2⟩
theorem opFX15 (x : Reg) : Statement (.opFX15 x) :=
  ⟨(layoutXNN_row _ _ _).2, (layoutXNN_row _ _ _).2⟩
theorem opFX18 (x : Reg) : Statement (.opFX18 x) :=
  ⟨(layoutXNN_row _ _ _).2, (layoutXNN_row _ _ _).2⟩
theorem opFX1E (x : Reg) : Statement (.opFX1E x) :=
  ⟨(layoutXNN_row _ _ _).2, (layoutXNN_row _ _ _).2⟩
theorem opFX29 (x : Reg) : Statement (.opFX29 x) :=
  ⟨(layoutXNN_row _ _ _).2, (layoutXNN_row _ _ _).2⟩
theorem opFX33 (x : Reg) : Statement (.opFX33 x) :=
  ⟨(layoutXNN_row _ _ _).2, (layoutXNN_row _ _ _).2⟩
theorem opFX55 (x : Reg) : Statement (.opFX55 x) :=
  ⟨(layoutXNN_row _ _ _).2, (layoutXNN_row _ _ _).2⟩
theorem opFX65 (x : Reg) : Statement (.opFX65 x) :=
  ⟨(layoutXNN_row _ _ _).2, (layoutXNN_row _ _ _).2⟩

end Sys2Proof.Laws.TableRow
end

