-- ==== Sys2Proof/Laws/Stores.lean ====
section
/-! SUPPORT. Laws/Stores.lean: the whole effect of the stores and loads of several bytes (R166 to R168): the bytes, the
registers, and the diagnostics in access order. -/

namespace Sys2Proof.Machine

/-! ## Stores -/

/-- The diagnostics of `n` accesses from offset `k` on, in ascending order (R227). -/
def oobFrom (s : State) (code : DiagCode) (k n : Nat) : List DiagEntry :=
  if s.cfg.diagEnabled then
    ((List.range' k n).filter fun j => decide (memSize ≤ s.dataAddr j)).map fun j => ⟨code, s.dataAddr j, s.pc⟩
  else []

theorem oobFrom_zero (s : State) (code : DiagCode) (n : Nat) : oobFrom s code 0 n = s.oobEntries code n := by
  simp [oobFrom, State.oobEntries, List.range_eq_range']

theorem oobFrom_congr {s t : State} (hi : t.i = s.i) (hc : t.cfg = s.cfg) (hp : t.pc = s.pc) (code : DiagCode) (k n : Nat) :
    oobFrom t code k n = oobFrom s code k n := by
  unfold oobFrom State.dataAddr
  rw [hi, hc, hp]

/-- One access more: its diagnostic first, if it is out of range. -/
theorem oobFrom_succ (s : State) (code : DiagCode) (k n : Nat) :
    oobFrom s code k (n + 1) =
      (if s.cfg.diagEnabled ∧ memSize ≤ s.dataAddr k then [⟨code, s.dataAddr k, s.pc⟩] else []) ++
        oobFrom s code (k + 1) n := by
  unfold oobFrom
  by_cases hd : s.cfg.diagEnabled <;> by_cases hk : memSize ≤ s.dataAddr k <;>
    simp [hd, hk, List.range'_succ]

theorem State.memWrite_log (s : State) (a : Nat) (v : Byte) :
    (s.memWrite a v).diagLog =
      s.diagLog ++ (if s.cfg.diagEnabled ∧ memSize ≤ a then [⟨.memWriteOob, a, s.pc⟩] else []) := by
  rcases s.memWrite_cases a v with ⟨ha, h⟩ | ⟨ha, h⟩
  · simp [h, Nat.not_le.mpr ha]
  · by_cases hd : s.cfg.diagEnabled <;> simp [h, ha, hd]

theorem State.memWrite_outputs (s : State) (a : Nat) (v : Byte) :
    (s.memWrite a v).outputs = s.outputs ++ (if memSize ≤ a then diagEvents (s.diagOf .memWriteOob a) else []) := by
  rcases s.memWrite_cases a v with ⟨ha, h⟩ | ⟨ha, h⟩
  · simp [h, Nat.not_le.mpr ha]
  · by_cases hd : s.cfg.diagEnabled <;> simp [h, ha, hd, diagEvents, State.diagOf]

theorem State.memWrite_byteAt_self {s : State} {a : Nat} {v : Byte} (ha : a < memSize) (h : Memory.wf s.cfg s.mem) :
    (s.memWrite a v).byteAt a = v := by
  rcases s.memWrite_cases a v with ⟨-, e⟩ | ⟨hn, -⟩
  · rw [e, State.byteAt_putByte_self h]
  · omega

/-- A store of several bytes logs each byte out of range, in ascending order. -/
theorem storeBytes_log (bs : List Byte) (k : Nat) (s : State) :
    (storeBytes k bs s).diagLog = s.diagLog ++ oobFrom s .memWriteOob k bs.length := by
  induction bs generalizing k s with
  | nil => simp [storeBytes, oobFrom]
  | cons b bs ih =>
    have hf := s.memWrite_frame (s.dataAddr k) b
    rw [storeBytes, ih, State.memWrite_log, List.length_cons, oobFrom_succ, List.append_assoc,
      oobFrom_congr (hf.i rfl) hf.cfg (s.memWrite_pc _ _)]

/-- The diagnostics of the stores are surfaced in the same order (R226, R239). -/
theorem storeBytes_outputs (bs : List Byte) (k : Nat) (s : State) :
    (storeBytes k bs s).outputs = s.outputs ++ diagEvents (oobFrom s .memWriteOob k bs.length) := by
  induction bs generalizing k s with
  | nil => simp [storeBytes, oobFrom, diagEvents]
  | cons b bs ih =>
    have hf := s.memWrite_frame (s.dataAddr k) b
    rw [storeBytes, ih, State.memWrite_outputs, List.length_cons, oobFrom_succ,
      oobFrom_congr (hf.i rfl) hf.cfg (s.memWrite_pc _ _)]
    by_cases hd : s.cfg.diagEnabled <;> by_cases hk : memSize ≤ s.dataAddr k <;> simp [hd, hk, diagEvents, State.diagOf]

/-- A store of several bytes puts the j-th at I + k + j, where that is in range. -/
theorem storeBytes_byteAt (bs : List Byte) (k : Nat) {s : State} (h : Memory.wf s.cfg s.mem) (j : Nat)
    (hj : j < bs.length) (ha : s.dataAddr (k + j) < memSize) :
    (storeBytes k bs s).byteAt (s.dataAddr (k + j)) = bs[j] := by
  induction bs generalizing k s j with
  | nil => simp at hj
  | cons b bs ih =>
    rw [storeBytes]
    cases j with
    | zero =>
      simp only [Nat.add_zero] at ha ⊢
      rw [(storeBytes_frame bs (k + 1) _).mem, State.memWrite_byteAt_self ha h]
      · rfl
      · simp only [List.mem_map, List.mem_range'_1, State.memWrite_dataAddr, not_exists, not_and]
        intro x hx
        simp only [State.dataAddr]
        omega
    | succ j =>
      have e : k + (j + 1) = k + 1 + j := by omega
      have := ih (k + 1) (s := s.memWrite (s.dataAddr k) b) (State.memWrite_keeps_wf _ _ h) j (by simpa using hj)
        (by rw [State.memWrite_dataAddr, ← e]; exact ha)
      rw [State.memWrite_dataAddr] at this
      rw [e, this]
      rfl

/-! ## Loads -/

theorem State.memRead_log (s : State) (a : Nat) :
    (s.memRead a).2.diagLog =
      s.diagLog ++ (if s.cfg.diagEnabled ∧ memSize ≤ a then [⟨.memReadOob, a, s.pc⟩] else []) := by
  rcases s.memRead_cases a with ⟨ha, h⟩ | ⟨ha, h⟩
  · simp [h, Nat.not_le.mpr ha]
  · by_cases hd : s.cfg.diagEnabled <;> simp [h, ha, hd]

theorem State.memRead_outputs (s : State) (a : Nat) :
    (s.memRead a).2.outputs = s.outputs ++ (if memSize ≤ a then diagEvents (s.diagOf .memReadOob a) else []) := by
  rcases s.memRead_cases a with ⟨ha, h⟩ | ⟨ha, h⟩
  · simp [h, Nat.not_le.mpr ha]
  · by_cases hd : s.cfg.diagEnabled <;> simp [h, ha, hd, diagEvents, State.diagOf]

theorem State.memRead_draws (s : State) (a : Nat) :
    (s.memRead a).2.draws = s.draws + (if memSize ≤ a then 1 else 0) := by
  rcases s.memRead_cases a with ⟨ha, h⟩ | ⟨ha, h⟩
  · simp [h, Nat.not_le.mpr ha]
  · simp [h, ha]

theorem State.oobCount_succ (s : State) (k : Nat) :
    s.oobCount (k + 1) = s.oobCount k + (if memSize ≤ s.dataAddr k then 1 else 0) := by
  unfold State.oobCount State.dataAddr
  split <;> omega

/-- `u` is `s` after the reads of I + 0 .. I + k - 1, as far as the next read can tell. -/
structure ReadAfter (s : State) (k : Nat) (u : State) : Prop where
  i : u.i = s.i
  pc : u.pc = s.pc
  cfg : u.cfg = s.cfg
  mem : u.mem = s.mem
  draws : u.draws = s.draws + s.oobCount k
  log : u.diagLog = s.diagLog ++ oobFrom s .memReadOob 0 k

theorem ReadAfter.start (s : State) : ReadAfter s 0 s where
  i := rfl
  pc := rfl
  cfg := rfl
  mem := rfl
  draws := by simp only [State.oobCount, State.dataAddr]; omega
  log := by simp [oobFrom]

theorem ReadAfter.dataAddr {s u : State} {k : Nat} (h : ReadAfter s k u) (j : Nat) : u.dataAddr j = s.dataAddr j := by
  rw [State.dataAddr, h.i]
  rfl

theorem oobFrom_snoc (s : State) (code : DiagCode) (k : Nat) :
    oobFrom s code 0 (k + 1) =
      oobFrom s code 0 k ++ (if s.cfg.diagEnabled ∧ memSize ≤ s.dataAddr k then [⟨code, s.dataAddr k, s.pc⟩] else []) := by
  unfold oobFrom
  by_cases hd : s.cfg.diagEnabled <;> by_cases hk : memSize ≤ s.dataAddr k <;>
    simp [hd, hk, List.range'_concat]

/-- The next read gives the data byte of the first state, and the reads go on from there. -/
theorem ReadAfter.read {s u : State} {k : Nat} (h : ReadAfter s k u) :
    (u.memRead (u.dataAddr k)).1 = s.dataByte k ∧ ReadAfter s (k + 1) (u.memRead (u.dataAddr k)).2 := by
  have hf := u.memRead_frame (u.dataAddr k)
  refine ⟨?_, ?_⟩
  · rcases u.memRead_cases (u.dataAddr k) with ⟨ha, e⟩ | ⟨ha, e⟩ <;> rw [h.dataAddr] at ha e ⊢ <;> rw [e]
    · rw [State.dataByte, if_pos ha]
      exact State.byteAt_congr h.mem h.cfg _
    · rw [State.dataByte, if_neg (by omega), h.draws]
      rfl
  · refine ⟨(hf.i rfl).trans h.i, (u.memRead_pc _).trans h.pc, hf.cfg.trans h.cfg, (u.memRead_mem _).trans h.mem, ?_, ?_⟩
    · rw [State.memRead_draws, h.draws, h.dataAddr, State.oobCount_succ, Nat.add_assoc]
    · rw [State.memRead_log, h.log, h.dataAddr, h.cfg, h.pc, oobFrom_snoc, List.append_assoc]

/-- What the reads can tell is not changed by an update of anything else. -/
theorem ReadAfter.congr {s u v : State} {k : Nat} (h : ReadAfter s k u) (i : v.i = u.i) (pc : v.pc = u.pc)
    (cfg : v.cfg = u.cfg) (mem : v.mem = u.mem) (draws : v.draws = u.draws) (log : v.diagLog = u.diagLog) :
    ReadAfter s k v :=
  ⟨i.trans h.i, pc.trans h.pc, cfg.trans h.cfg, mem.trans h.mem, draws.trans h.draws, log.trans h.log⟩

/-- The register loop of FX65 from register number k on: each register of the list gets its data byte (R168). -/
theorem loadRegs_spec {s : State} (rs : List Reg) (k : Nat) {u : State} (hrs : rs.map Fin.val = List.range' k rs.length)
    (h : ReadAfter s k u) :
    ReadAfter s (k + rs.length) (loadRegs rs u) ∧ ∀ r ∈ rs, (loadRegs rs u).reg r = s.dataByte r.val := by
  induction rs generalizing k u with
  | nil => exact ⟨h, by simp⟩
  | cons q rs ih =>
    rw [List.map_cons, List.length_cons, List.range'_succ, List.cons.injEq] at hrs
    obtain ⟨hq, hrs⟩ := hrs
    subst hq
    obtain ⟨hv, hr⟩ := h.read
    have hstep : ReadAfter s (q.val + 1) (u.loadReg q) := hr.congr rfl rfl rfl rfl rfl rfl
    obtain ⟨hlast, hall⟩ := ih (q.val + 1) hrs hstep
    refine ⟨by rw [List.length_cons, ← Nat.add_assoc, Nat.add_right_comm]; exact hlast, fun r hmem => ?_⟩
    rcases List.mem_cons.mp hmem with rfl | hmem
    · by_cases hin : r ∈ rs
      · exact hall r hin
      · rw [loadRegs, (loadRegs_frame rs _).regs r hin, State.loadReg, State.reg_setReg_self, hv]
    · exact hall r hmem

/-- The diagnostics of FX65's loop are surfaced in access order (R226, R239). -/
theorem loadRegs_outputs {s : State} (rs : List Reg) (k : Nat) {u : State} (hrs : rs.map Fin.val = List.range' k rs.length)
    (h : ReadAfter s k u) : (loadRegs rs u).outputs = u.outputs ++ diagEvents (oobFrom s .memReadOob k rs.length) := by
  induction rs generalizing k u with
  | nil => simp [loadRegs, oobFrom, diagEvents]
  | cons q rs ih =>
    rw [List.map_cons, List.length_cons, List.range'_succ, List.cons.injEq] at hrs
    obtain ⟨hq, hrs⟩ := hrs
    subst hq
    have hstep : ReadAfter s (q.val + 1) (u.loadReg q) := h.read.2.congr rfl rfl rfl rfl rfl rfl
    have hout : (u.loadReg q).outputs = (u.memRead (u.dataAddr q.val)).2.outputs := rfl
    rw [loadRegs, ih (q.val + 1) hrs hstep, hout, State.memRead_outputs, List.length_cons, oobFrom_succ, h.dataAddr,
      State.diagOf, h.cfg, h.pc]
    by_cases hd : s.cfg.diagEnabled <;> by_cases hk : memSize ≤ s.dataAddr q.val <;> simp [hd, hk, diagEvents]

/-- The registers of FX55 and FX65 are V0..VX in this order. -/
theorem regsUpTo_vals (x : Reg) : (regsUpTo x).map Fin.val = List.range' 0 (regsUpTo x).length := by
  revert x
  decide

theorem regsUpTo_length (x : Reg) : (regsUpTo x).length = x.val + 1 := by
  revert x
  decide

theorem mem_regsUpTo {x r : Reg} : r ∈ regsUpTo x ↔ r ≤ x := by
  revert x r
  decide

theorem regsUpTo_getElem (x r : Reg) (h : r.val < (regsUpTo x).length) : (regsUpTo x)[r.val] = r := by
  have hlen : r.val < ((regsUpTo x).map Fin.val).length := by simpa using h
  have := List.getElem_of_eq (regsUpTo_vals x) hlen
  rw [List.getElem_map, List.getElem_range'] at this
  exact Fin.ext (by omega)

end Sys2Proof.Machine
end

