-- ==== Sys2Proof/Laws/Sprites.lean ====
section
/-! SUPPORT. Laws/Sprites.lean: the whole effect of a drawn row and of a drawn sprite on the pixels (R183, R184, R186, R181). -/

namespace Sys2Proof.Machine

/-- `any` sees a predicate on the members only. -/
theorem any_congr_of_mem {f g : Nat → Bool} {l : List Nat} (h : ∀ i ∈ l, f i = g i) : l.any f = l.any g := by
  rw [Bool.eq_iff_iff, List.any_eq_true, List.any_eq_true]
  exact ⟨fun ⟨i, hi, e⟩ => ⟨i, hi, (h i hi) ▸ e⟩, fun ⟨i, hi, e⟩ => ⟨i, hi, (h i hi).symm ▸ e⟩⟩

/-! ## One row -/

/-- The column loop over columns that land apart: each set bit flips its own pixel, and there is a collision exactly when a
set bit's pixel was set before the row (R186). -/
theorem drawColumns_spec {c : Config} (hw : 0 < c.displayW) (hh : 0 < c.displayH) (x y : Nat) (b : Byte) (js : List Nat)
    (hjs : js.Pairwise fun i j => (x + i) % c.displayW ≠ (x + j) % c.displayW) {fb : List (List Bool)}
    (hf : FbShape c fb) :
    (drawColumns c.displayW c.displayH x y b js fb).1 =
        js.any (fun j => spriteBit b j && pixelOf fb ((x + j) % c.displayW) (y % c.displayH)) ∧
      ∀ px py, pixelOf (drawColumns c.displayW c.displayH x y b js fb).2 px py =
        (pixelOf fb px py ^^ (decide (y % c.displayH = py) &&
          js.any fun j => spriteBit b j && decide ((x + j) % c.displayW = px))) := by
  induction js generalizing fb with
  | nil => simp [drawColumns]
  | cons j js ih =>
    obtain ⟨hj, hrest⟩ := List.pairwise_cons.mp hjs
    rw [drawColumns]
    by_cases hb : spriteBit b j = true
    · have hx := Nat.mod_lt (x + j) hw
      have hy := Nat.mod_lt y hh
      obtain ⟨hc, hp⟩ := ih hrest (flipPixel_keeps_shape _ _ hf)
      have hflip := pixelOf_flipPixel hf hx hy
      rw [if_pos hb]
      refine ⟨?_, fun px py => ?_⟩
      · show (_ || _) = _
        rw [hc, List.any_cons, hb, Bool.true_and]
        congr 1
        refine any_congr_of_mem fun i hi => ?_
        simp only [hflip, (hj i hi).symm, false_and, decide_false, Bool.xor_false]
      · show pixelOf (drawColumns _ _ _ _ _ _ _).2 px py = _
        rw [hp, hflip, List.any_cons, hb, Bool.true_and]
        by_cases hpy : y % c.displayH = py
        · by_cases hpx : (x + j) % c.displayW = px
          · have : (js.any fun i => spriteBit b i && decide ((x + i) % c.displayW = px)) = false := by
              simp only [List.any_eq_false, Bool.and_eq_true, decide_eq_true_eq, not_and]
              intro i hi _ e
              exact hj i hi (hpx.trans e.symm)
            simp [this, hpx, hpy]
          · simp [hpx, Ne.symm hpx, hpy]
        · simp [hpy, Ne.symm hpy]
    · rw [if_neg hb]
      obtain ⟨hc, hp⟩ := ih hrest hf
      simp only [Bool.not_eq_true] at hb
      exact ⟨by rw [hc, List.any_cons, hb]; simp, fun px py => by rw [hp, List.any_cons, hb]; simp⟩

/-- Eight columns in a row land apart on a display at least 8 wide (R186: "Because W >= 8 … the 8 pixels of one row are
distinct"). -/
theorem columns_apart {w : Nat} (hw : 8 ≤ w) (x : Nat) :
    ([0, 1, 2, 3, 4, 5, 6, 7] : List Nat).Pairwise fun i j => (x + i) % w ≠ (x + j) % w := by
  have key : ∀ i j, i < j → j < 8 → (x + i) % w ≠ (x + j) % w := fun i j hij hj e => by
    have := (Nat.modEq_iff_dvd' (by omega : x + i ≤ x + j)).mp e
    have := Nat.le_of_dvd (by omega) this
    omega
  have hlt : ([0, 1, 2, 3, 4, 5, 6, 7] : List Nat).Pairwise (· < ·) := by decide
  refine hlt.imp_of_mem fun {i j} _ hj hij => key i j hij ?_
  simp only [List.mem_cons, List.not_mem_nil, or_false] at hj
  omega

/-- `fb_drawRow` on the pixels, in one statement (R183, R184, R186). -/
theorem drawRow_spec {c : Config} (hw : 8 ≤ c.displayW) (hh : 0 < c.displayH) (x y : Nat) (b : Byte)
    {fb : List (List Bool)} (hf : FbShape c fb) :
    (drawRow c.displayW c.displayH x y b fb).1 =
        (List.range 8).any (fun j => spriteBit b j && pixelOf fb ((x + j) % c.displayW) (y % c.displayH)) ∧
      ∀ px py, pixelOf (drawRow c.displayW c.displayH x y b fb).2 px py =
        (pixelOf fb px py ^^ (decide (y % c.displayH = py) &&
          (List.range 8).any fun j => spriteBit b j && decide ((x + j) % c.displayW = px))) :=
  drawColumns_spec (by omega) hh x y b [0, 1, 2, 3, 4, 5, 6, 7] (columns_apart hw x) hf

/-! ## A sprite -/

theorem State.flipped_zero (s : State) (x0 y0 px py : Nat) : s.flipped x0 y0 px py 0 = false := rfl

theorem State.flipped_succ (s : State) (x0 y0 px py r : Nat) :
    s.flipped x0 y0 px py (r + 1) = (s.flipped x0 y0 px py r ^^ s.rowHits x0 y0 px py r) := by
  unfold State.flipped State.hitCount
  rw [List.range_succ, List.filter_append, List.length_append]
  cases h : s.rowHits x0 y0 px py r
  · simp [h]
  · simp only [List.filter_cons, h, if_true, List.filter_nil, List.length_singleton, Bool.xor_true]
    rw [← decide_not, decide_eq_decide]
    omega

/-- `u` is `s` after the first `r` rows of a sprite. -/
structure DrawnTo (s : State) (x0 y0 r : Nat) (u : State) : Prop where
  reads : ReadAfter s r u
  shape : FbShape s.cfg u.fb
  pixel : ∀ px py, u.pixel px py = (s.pixel px py ^^ s.flipped x0 y0 px py r)
  outputs : u.outputs = s.outputs ++ (List.range r).flatMap (s.rowEvents x0 y0)

theorem DrawnTo.row {s u : State} {x0 y0 r : Nat} (hw : 8 ≤ s.cfg.displayW) (hh : 0 < s.cfg.displayH)
    (h : DrawnTo s x0 y0 r u) :
    ((u.drawSpriteRow x0 y0 r).1 = true ↔ s.rowCollides x0 y0 r) ∧ DrawnTo s x0 y0 (r + 1) (u.drawSpriteRow x0 y0 r).2 := by
  obtain ⟨hv, hr⟩ := h.reads.read
  have hfb : (u.memRead (u.dataAddr r)).2.fb = u.fb := (u.memRead_frame _).fb rfl
  have hspec := drawRow_spec hw hh x0 (y0 + r) (s.dataByte r) h.shape
  have hrow : u.drawSpriteRow x0 y0 r = (u.memRead (u.dataAddr r)).2.fbDrawRow x0 (y0 + r) (s.dataByte r) := by
    rw [← hv]; rfl
  have hdraw : drawRow (u.memRead (u.dataAddr r)).2.cfg.displayW (u.memRead (u.dataAddr r)).2.cfg.displayH x0 (y0 + r)
      (s.dataByte r) (u.memRead (u.dataAddr r)).2.fb =
      drawRow s.cfg.displayW s.cfg.displayH x0 (y0 + r) (s.dataByte r) u.fb := by rw [hr.cfg, hfb]
  rw [hrow]
  have hc : ((u.memRead (u.dataAddr r)).2.fbDrawRow x0 (y0 + r) (s.dataByte r)).1 = true ↔ s.rowCollides x0 y0 r := ?_
  refine ⟨hc, ⟨hr.congr rfl rfl rfl rfl rfl rfl, ?_, fun px py => ?_, ?_⟩⟩
  rotate_left 3
  · show (drawRow _ _ _ _ _ _).1 = true ↔ _
    rw [hdraw, hspec.1, List.any_eq_true]
    constructor
    · rintro ⟨j, hj, e⟩
      rw [Bool.and_eq_true] at e
      refine ⟨_, Nat.mod_lt (x0 + j) (by omega), _, Nat.mod_lt (y0 + r) hh, ?_, ?_⟩
      · simp only [State.rowHits, decide_true, Bool.true_and, List.any_eq_true]
        exact ⟨j, hj, by simp [e.1]⟩
      · exact (h.pixel _ _).symm.trans e.2
    · rintro ⟨px, -, py, -, hit, set⟩
      simp only [State.rowHits, Bool.and_eq_true, decide_eq_true_eq, List.any_eq_true] at hit
      obtain ⟨hy, j, hj, hb, hx⟩ := hit
      refine ⟨j, hj, ?_⟩
      rw [hb, Bool.true_and, hx, hy]
      exact (h.pixel _ _).trans set
  · show FbShape s.cfg (drawRow _ _ _ _ _ _).2
    rw [hdraw]
    exact drawRow_keeps_shape _ _ _ _ _ h.shape
  · show pixelOf (drawRow _ _ _ _ _ _).2 px py = _
    rw [hdraw, hspec.2, State.flipped_succ, ← Bool.xor_assoc]
    congr 1
    exact h.pixel px py
  · have hb : ((u.memRead (u.dataAddr r)).2.fbDrawRow x0 (y0 + r) (s.dataByte r)).1 = decide (s.rowCollides x0 y0 r) := by
      rw [Bool.eq_iff_iff, hc, decide_eq_true_eq]
    have hout : ((u.memRead (u.dataAddr r)).2.fbDrawRow x0 (y0 + r) (s.dataByte r)).2.outputs =
        (u.memRead (u.dataAddr r)).2.outputs ++ [.fbDrawRow x0 (y0 + r) (s.dataByte r)
          ((u.memRead (u.dataAddr r)).2.fbDrawRow x0 (y0 + r) (s.dataByte r)).1] := rfl
    rw [hout, hb, State.memRead_outputs, h.outputs, h.reads.dataAddr, State.diagOf, h.reads.cfg, h.reads.pc,
      List.range_succ, List.flatMap_append, List.flatMap_singleton, State.rowEvents, State.diagOf]
    simp only [List.append_assoc]

/-- The row loop of DXYN from row `r` on: the pixels of all rows, and a collision exactly when some row collides (R181). -/
theorem drawSprite_spec {s : State} {x0 y0 : Nat} (hw : 8 ≤ s.cfg.displayW) (hh : 0 < s.cfg.displayH) (n : Nat) {r : Nat}
    {u : State} (h : DrawnTo s x0 y0 r u) :
    ((drawSprite x0 y0 n r u).1 = true ↔ ∃ q, r ≤ q ∧ q < r + n ∧ s.rowCollides x0 y0 q) ∧
      DrawnTo s x0 y0 (r + n) (drawSprite x0 y0 n r u).2 := by
  induction n generalizing r u with
  | zero => exact ⟨⟨fun e => absurd e (by simp [drawSprite]), fun ⟨q, h1, h2, _⟩ => by omega⟩, h⟩
  | succ n ih =>
    obtain ⟨hc, hd⟩ := h.row hw hh
    obtain ⟨hcs, hds⟩ := ih hd
    refine ⟨?_, by rw [← Nat.add_assoc, Nat.add_right_comm]; exact hds⟩
    show (_ || _) = true ↔ _
    rw [Bool.or_eq_true, hc, hcs]
    constructor
    · rintro (h | ⟨q, h1, h2, h3⟩)
      · exact ⟨r, le_refl r, by omega, h⟩
      · exact ⟨q, by omega, by omega, h3⟩
    · rintro ⟨q, h1, h2, h3⟩
      rcases Nat.eq_or_lt_of_le h1 with rfl | h1
      · exact .inl h3
      · exact .inr ⟨q, h1, by omega, h3⟩

theorem DrawnTo.start {s : State} (h : FbShape s.cfg s.fb) (x0 y0 : Nat) : DrawnTo s x0 y0 0 s where
  reads := ReadAfter.start s
  shape := h
  pixel := fun px py => by rw [State.flipped_zero, Bool.xor_false]
  outputs := by simp

end Sys2Proof.Machine
end

