-- ==== Sys2Proof/Tests/Slice0.lean ====
section
/-! SUPPORT. Tests/Slice0.lean: the model's own tests. Words are written out from the spec's encodings (files 41 to 45,
"encoding" lines); expected results are the vectors of 95_test_vectors.md, named in each docstring. Every test_witness_<Name>
shows a state and operands that meet the hypotheses of the obligation <Name> together, at the boundaries of its clauses. -/

namespace Sys2Proof.Tests

open Sys2Proof Sys2Proof.Machine

/-! ## Builders -/

/-- Bytes stored one after another from address `a`. -/
def poke (a : Nat) (bs : List Byte) (s : State) : State := putBytes a bs s

/-- The reset state with some registers set. -/
def regs (rs : List (Reg × Byte)) : State := rs.foldl (fun s r => s.setReg r.1 r.2) State.reset

/-- The reset state with another configuration. -/
def under (c : Config) (s : State) : State := { s with cfg := c }

/-- The state a step answered, if it answered one. -/
def after : Answer → Option State
  | .next t => some t
  | .fault _ => none
  | .refused _ => none

/-- A word executed from a state by the whole machine: placed at PC, fetched, decoded, run. -/
def ran (w : Nat) (s : State) : Option State := after (step (s.withFetchWord 16 w))

/-- One step of an agent. -/
def moved (a : AgentStep) (s : State) : Option State := after (step { s with schedule := [a] })

/-- The pixels set in a row of the display. -/
def lit (s : State) (y : Nat) : List Nat := (List.range s.cfg.displayW).filter fun x => s.pixel x y

def jumpMode : Config := { Config.default with bnnnMode := .jump }
def flagFirst : Config := { Config.default with shiftFlagOrder := .flagFirst }
def strict : Config := { Config.default with strictDecode := true }
def quiet : Config := { Config.default with diagEnabled := false }
/-- A small display, 8 x 2. -/
def small : Config := { Config.default with displayW := 8, displayH := 2 }

/-! ## Well-formedness: one ill-formed configuration for each check of R7 -/

theorem test_default_config_well_formed : Config.default.wf = true := by decide
theorem test_width_not_multiple_of_8_refused : { Config.default with displayW := 60 }.widthOk = false := by decide
theorem test_width_0_refused : { Config.default with displayW := 0 }.widthOk = false := by decide
theorem test_height_0_refused : { Config.default with displayH := 0 }.heightOk = false := by decide
theorem test_ipf_0_refused : { Config.default with ipf := 0 }.ipfOk = false := by decide
theorem test_short_font_refused : { Config.default with font := [0xF0] }.fontOk = false := by decide
theorem test_ill_formed_config_refused : { Config.default with displayW := 60 }.wf = false ∧
    { Config.default with displayH := 0 }.wf = false ∧ { Config.default with ipf := 0 }.wf = false ∧
    { Config.default with font := [] }.wf = false := by decide

/-! ## Decoding: a word for every constructor, bit by bit from its encoding line -/

theorem test_decode_control :
    decode false 0b0000000011101110 = .instr .op00EE ∧
    decode false 0b0001101010111100 = .instr (.op1NNN 0xABC) ∧
    decode false 0b0010001000010000 = .instr (.op2NNN 0x210) ∧
    decode false 0b0011001001000010 = .instr (.op3XNN 2 0x42) ∧
    decode false 0b0100001001000011 = .instr (.op4XNN 2 0x43) ∧
    decode false 0b0101000100100000 = .instr (.op5XY0 1 2) ∧
    decode false 0b1001000100100000 = .instr (.op9XY0 1 2) := by decide

theorem test_decode_alu :
    decode false 0b0110111110101010 = .instr (.op6XNN 15 0xAA) ∧
    decode false 0b0111111100000101 = .instr (.op7XNN 15 0x05) ∧
    decode false 0b1000001111000000 = .instr (.op8XY0 3 12) ∧
    decode false 0b1000001111000001 = .instr (.op8XY1 3 12) ∧
    decode false 0b1000001111000010 = .instr (.op8XY2 3 12) ∧
    decode false 0b1000001111000011 = .instr (.op8XY3 3 12) ∧
    decode false 0b1000001111000100 = .instr (.op8XY4 3 12) ∧
    decode false 0b1000001111000101 = .instr (.op8XY5 3 12) ∧
    decode false 0b1000001111000110 = .instr (.op8XY6 3) ∧
    decode false 0b1000001111000111 = .instr (.op8XY7 3 12) ∧
    decode false 0b1000001111001110 = .instr (.op8XYE 3) ∧
    decode false 0b1100001100001111 = .instr (.opCXNN 3 0x0F) := by decide

theorem test_decode_index_and_memory :
    decode false 0b1010000100100011 = .instr (.opANNN 0x123) ∧
    decode false 0b1011001100000000 = .instr (.opBNNN 0x300) ∧
    decode false 0b1111001000011110 = .instr (.opFX1E 2) ∧
    decode false 0b1111000000101001 = .instr (.opFX29 0) ∧
    decode false 0b1111000100110011 = .instr (.opFX33 1) ∧
    decode false 0b1111101101010101 = .instr (.opFX55 11) ∧
    decode false 0b1111101101100101 = .instr (.opFX65 11) := by decide

theorem test_decode_display :
    decode false 0b0000000011100000 = .instr .op00E0 ∧
    decode false 0b1101000000010010 = .instr (.opDXYN 0 1 2) := by decide

theorem test_decode_timers_and_keys :
    decode false 0b1110010110011110 = .instr (.opEX9E 5) ∧
    decode false 0b1110010110100001 = .instr (.opEXA1 5) ∧
    decode false 0b1111001100000111 = .instr (.opFX07 3) ∧
    decode false 0b1111001000001010 = .instr (.opFX0A 2) ∧
    decode false 0b1111001100010101 = .instr (.opFX15 3) ∧
    decode false 0b1111010000011000 = .instr (.opFX18 4) := by decide

/-- EX7 to EX10: the ignored nibbles of the default decoder, UNKNOWN under STRICT_DECODE. -/
theorem test_decode_strict :
    decode false 0x5123 = .instr (.op5XY0 1 2) ∧ decode true 0x5123 = .reject (.unknownOpcode 0x5123) ∧
    decode false 0x0AE0 = .instr .op00E0 ∧ decode true 0x0AE0 = .reject (.unknownOpcode 0x0AE0) ∧
    decode true 0x8126 = .instr (.op8XY6 1) := by decide

/-- EX14's two outcomes in both modes: a word in a row, and an UNKNOWN one. -/
theorem test_witness_DecoderFollowsOpcodeMap :
    decode false 0x8014 = .instr (.op8XY4 0 1) ∧ decode true 0x8014 = .instr (.op8XY4 0 1) ∧
    decode false 0x801F = .reject (.unknownOpcode 0x801F) ∧ decode true 0x9121 = .reject (.unknownOpcode 0x9121) := by
  decide

/-- R70: a single byte is no word. -/
theorem test_decode_too_short : decodeBytes false [0x60] = .reject (.tooShort 1) := by decide

theorem test_decode_table_word : decodeTableWord 16 0xD012 = some (.opDXYN 0 1 2) ∧ decodeTableWord 16 0x0123 = none := by
  decide

/-! ## The cycle -/

/-- EX13: a word at an odd address, its high byte first. -/
theorem test_fetch_odd_address :
    let s := poke 0x211 [0x60, 0x42] { State.reset with pc := 0x211, romEnd := 0x214 }
    (after (step s)).map (fun t => (t.reg 0, t.pc)) = some (0x42, 0x213) := by decide

/-- EX1: the last whole word of the ROM executes. -/
theorem test_witness_StepRunsDecodedInstruction :
    let s := poke 0x200 [0x60, 0x05] { State.reset with romEnd := 0x202 }
    s.live = true ∧ s.nextAgent = .cpu ∧ s.run = .running ∧ s.pc.toNat + 2 ≤ s.romEnd ∧ s.pc.toNat + 1 ≤ 0xFFF ∧
      decode s.cfg.strictDecode s.fetchWord = .instr (.op6XNN 0 0x05) ∧
      (after (step s)).map (fun t => (t.reg 0, t.pc)) = some (0x05, 0x202) := by decide

/-- EX5: an UNKNOWN word. -/
theorem test_witness_StepPassesUnknownWord :
    let s := poke 0x210 [0x80, 0x1F] { State.reset with pc := 0x210, romEnd := 0x212 }
    s.live = true ∧ s.nextAgent = .cpu ∧ s.run = .running ∧ s.pc.toNat + 2 ≤ s.romEnd ∧ s.pc.toNat + 1 ≤ 0xFFF ∧
      decode s.cfg.strictDecode s.fetchWord = .reject (.unknownOpcode 0x801F) ∧
      (after (step s)).map (fun t => (t.pc, t.diagLog)) = some (0x212, [⟨.unknownOpcode, 0x801F, 0x210⟩]) := by decide

/-- EX11: DIAG_ENABLED = false leaves no log entry. -/
theorem test_unknown_word_quiet :
    (ran 0xE0FF (under quiet State.reset)).map (fun t => (t.pc, t.diagLog)) = some (0x202, []) := by decide

/-- EX2: the word behind the ROM is not fetched. -/
theorem test_witness_EngineIdlesPastRom :
    let s := { State.reset with pc := 0x202, romEnd := 0x202 }
    s.live = true ∧ s.nextAgent = .cpu ∧ s.run = .running ∧ s.romEnd < s.pc.toNat + 2 ∧
      (after (step s)).map (fun t => (t.run, t.pc)) = some (.idle, 0x202) := by decide

/-- EX3: the last byte of an odd ROM is never a word's high byte. -/
theorem test_odd_rom_end_idles :
    (after (step { State.reset with pc := 0x204, romEnd := 0x205 })).map (·.run) = some .idle := by decide

/-- R92 at its boundary: with a ROM_END above memory, the fetch at 0xFFF is fatal; the second clause's premises hold at
reset. -/
theorem test_witness_FetchOutOfRangeIsFatal :
    let s := { State.reset with pc := 0xFFF, romEnd := 0x1001 }
    (s.live = true ∧ s.nextAgent = .cpu ∧ s.run = .running ∧ s.pc.toNat + 2 ≤ s.romEnd ∧ 0xFFF < s.pc.toNat + 1 ∧
      (after (step s)).map (·.run) = some (.halted .fetchOob)) ∧
    (State.reset.romEnd ≤ 0x1000 ∧ State.reset.run ≠ .halted .fetchOob ∧ (after (step State.reset)).isSome = true) := by
  decide

theorem test_witness_StoppedEngineExecutesNothing :
    let s := { State.reset with run := .halted .stackOverflow, dt := 5 }
    let as := [AgentStep.cpu, .delayTick, .host .shutdown, .host (.setKey 3 true)]
    s.live = true ∧ s.run ≠ .running ∧ (∀ a ∈ as, a.keepsVm = true) ∧
      (after (runAgents as s)).map (fun t => (t.run, t.dt)) = some (.halted .stackOverflow, 4) := by decide

theorem test_witness_StoppedEngineIsSafe :
    let s := { State.reset with run := .idle, schedule := [.delayTick] }
    s.live = true ∧ s.run = .idle ∧ (∀ a ∈ s.schedule, a.keepsVm = true) ∧ safeRun 3 s = true := by decide

/-- The last address a word fits at, and one where none fits. -/
theorem test_witness_PlacedWordRunsNext :
    Memory.wf State.reset.cfg State.reset.mem ∧
    decode State.reset.cfg.strictDecode (BitVec.ofNat 16 0x6AA5) = .instr (.op6XNN 10 0xA5) ∧
    (ran 0x6AA5 { State.reset with pc := 0xFFE }).map (fun t => (t.reg 10, t.pc)) = some (0xA5, 0x1000) ∧
    (ran 0x6AA5 { State.reset with pc := 0xFFF }).map (fun t => (t.reg 10, t.pc)) = some (0xA5, 0x202) := by decide

/-! ## Memory -/

/-- R53 at the last address and at the first one outside. -/
theorem test_witness_MemWriteChangesOneCell :
    Memory.wf State.reset.cfg State.reset.mem ∧
    (0xFFF < memSize ∧ (State.reset.memWrite 0xFFF 7).byteAt 0xFFF = 7) ∧
    (memSize ≤ 0x1000 ∧ (State.reset.memWrite 0x1000 7).diagLog = [⟨.memWriteOob, 0x1000, 0x200⟩]) := by decide

/-- The canonical form: writing back what an address read as at reset removes the entry (font byte 0x50 is 0xF0). -/
theorem test_witness_CanonicalMemoryIsUnique :
    let s := (State.reset.memWrite 0x50 1).memWrite 0x50 0xF0
    Memory.wf s.cfg s.mem ∧ Memory.wf State.reset.cfg State.reset.mem ∧ s.cfg = State.reset.cfg ∧
      s.mem = State.reset.mem := by decide

/-! ## Control flow -/

/-- CF3. -/
theorem test_CF3 : (ran 0x1ABC State.reset).map (·.pc) = some 0xABC := by decide

/-- CF6 and CF7: the last free entry, and the full stack. -/
theorem test_witness_CallPushesReturnAddress :
    let s := { State.reset with pc := 0x250, sp := 15 }
    let full := { State.reset with pc := 0x250, sp := 16 }
    s.sp.val < 16 ∧ (ran 0x2300 s).map (fun t => (t.pc, t.sp, t.stackAt 15)) = some (0x300, 16, 0x252) ∧
    full.sp.val = 16 ∧ (ran 0x2300 full).map (fun t => (t.pc, t.sp, t.run, t.outputs)) =
      some (0x250, 16, .halted .stackOverflow, [.error (.fatal .stackOverflow 0x250 (some 0x2300))]) := by decide

/-- CF1 and CF2: one entry, and the empty stack. -/
theorem test_witness_ReturnPopsIntoPc :
    let s := { State.reset with pc := 0x214, sp := 1, stack := Vector.replicate 16 0x206 }
    let empty := { State.reset with pc := 0x214 }
    0 < s.sp.val ∧ (ran 0x00EE s).map (fun t => (t.pc, t.sp)) = some (0x206, 0) ∧
    empty.sp.val = 0 ∧ (ran 0x00EE empty).map (fun t => (t.pc, t.run, t.outputs)) =
      some (0x214, .halted .stackUnderflow, [.error (.fatal .stackUnderflow 0x214 (some 0x00EE))]) := by decide

/-- S4 at the last depth. -/
theorem test_witness_ReturnUndoesCall :
    let s := { State.reset with sp := 15 }
    s.sp.val < 16 ∧ (after (exec (.op2NNN 0x300) s)).isSome = true ∧
      ((after (exec (.op2NNN 0x300) s)).bind fun t => (after (exec .op00EE { t with pc := 0x400 })).map
        fun r => (r.pc, r.sp)) = some (0x202, 15) := by decide

/-- CF8 to CF16. -/
theorem test_witness_RegisterSkips :
    let s := regs [(1, 7), (2, 0x42)]
    s.pcUpdated = false ∧
    (ran 0x3242 s).map (·.pc) = some 0x204 ∧ (ran 0x3243 s).map (·.pc) = some 0x202 ∧
    (ran 0x4242 s).map (·.pc) = some 0x202 ∧ (ran 0x4243 s).map (·.pc) = some 0x204 ∧
    (ran 0x5120 s).map (·.pc) = some 0x202 ∧ (ran 0x5330 s).map (·.pc) = some 0x204 ∧
    (ran 0x9120 s).map (·.pc) = some 0x204 ∧ (ran 0x9110 s).map (·.pc) = some 0x202 := by decide

/-! ## Registers and arithmetic -/

/-- AL1 and AL4. -/
theorem test_witness_LoadsSetTheRegister :
    let s := regs [(1, 0x33)]
    s.pcUpdated = false ∧ (ran 0x6FAA s).map (·.reg vF) = some 0xAA ∧ (ran 0x8010 s).map (·.reg 0) = some 0x33 := by decide

/-- AL2 and AL3. -/
theorem test_witness_AddImmediateWraps :
    let s := regs [(0, 0xFF), (15, 0x5A)]
    s.pcUpdated = false ∧ (ran 0x7001 s).map (fun t => (t.reg 0, t.reg vF)) = some (0x00, 0x5A) ∧
    (ran 0x7F05 (regs [(15, 0x10)])).map (·.reg vF) = some 0x15 := by decide

/-- AL5, AL6, AL7, AL8. -/
theorem test_witness_LogicIsBitwise :
    (regs []).pcUpdated = false ∧
    (ran 0x8011 (regs [(0, 0xF0), (1, 0x0F), (15, 0x77)])).map (fun t => (t.reg 0, t.reg vF)) = some (0xFF, 0x77) ∧
    (ran 0x8012 (regs [(0, 0xF0), (1, 0x3C), (15, 0x77)])).map (fun t => (t.reg 0, t.reg vF)) = some (0x30, 0x77) ∧
    (ran 0x8013 (regs [(0, 0xFF), (1, 0x0F), (15, 0x77)])).map (fun t => (t.reg 0, t.reg vF)) = some (0xF0, 0x77) ∧
    (ran 0x8003 (regs [(0, 0x5A)])).map (·.reg 0) = some 0x00 := by decide

/-- AL9, AL10, AL13, AL14. -/
theorem test_witness_AddSetsCarry :
    (regs []).pcUpdated = false ∧
    (ran 0x8014 (regs [(0, 0x80), (1, 0x80)])).map (fun t => (t.reg 0, t.reg vF)) = some (0x00, 1) ∧
    (ran 0x8014 (regs [(0, 0x7F), (1, 0x80)])).map (fun t => (t.reg 0, t.reg vF)) = some (0xFF, 0) ∧
    (ran 0x8F14 (regs [(1, 0x01), (15, 0xFF)])).map (·.reg vF) = some 1 ∧
    (ran 0x80F4 (regs [(0, 0xFF), (15, 0x01)])).map (fun t => (t.reg 0, t.reg vF)) = some (0x00, 1) := by decide

/-- AL16, AL17, AL18; AL24, AL25. -/
theorem test_witness_SubtractSetsNotBorrow :
    (regs []).pcUpdated = false ∧
    (ran 0x8015 (regs [(0, 0x03), (1, 0x05)])).map (fun t => (t.reg 0, t.reg vF)) = some (0xFE, 0) ∧
    (ran 0x8015 (regs [(0, 0x07), (1, 0x07)])).map (fun t => (t.reg 0, t.reg vF)) = some (0x00, 1) ∧
    (ran 0x8F15 (regs [(1, 0x20), (15, 0x10)])).map (·.reg vF) = some 0 ∧
    (ran 0x8017 (regs [(0, 0x03), (1, 0x05)])).map (fun t => (t.reg 0, t.reg vF)) = some (0x02, 1) ∧
    (ran 0x8017 (regs [(0, 0x05), (1, 0x03)])).map (fun t => (t.reg 0, t.reg vF)) = some (0xFE, 0) := by decide

/-- AL19, AL20, AL22, AL23; AL27, AL28, AL29, AL30. -/
theorem test_witness_ShiftsInBothFlagOrders :
    (regs []).pcUpdated = false ∧ Config.default.shiftFlagOrder = .flagLast ∧ flagFirst.shiftFlagOrder = .flagFirst ∧
    (ran 0x8106 (regs [(1, 0x05)])).map (fun t => (t.reg 1, t.reg vF)) = some (0x02, 1) ∧
    (ran 0x8126 (regs [(1, 0xFF)])).map (fun t => (t.reg 1, t.reg vF, t.reg 2)) = some (0x7F, 1, 0) ∧
    (ran 0x8F06 (regs [(15, 0x03)])).map (·.reg vF) = some 1 ∧
    (ran 0x8F06 (under flagFirst (regs [(15, 0x03)]))).map (·.reg vF) = some 0 ∧
    (ran 0x822E (regs [(2, 0x81)])).map (fun t => (t.reg 2, t.reg vF)) = some (0x02, 1) ∧
    (ran 0x820E (regs [(2, 0x7F)])).map (fun t => (t.reg 2, t.reg vF)) = some (0xFE, 0) ∧
    (ran 0x8F0E (regs [(15, 0x81)])).map (·.reg vF) = some 1 ∧
    (ran 0x8F0E (under flagFirst (regs [(15, 0x81)]))).map (·.reg vF) = some 0x02 := by decide

/-- AL33: whatever the random byte is. -/
theorem test_AL33 : (after (exec (.opCXNN 3 0x00) State.reset)).map (·.reg 3) = some 0x00 :=
  congrArg some (BitVec.and_zero (x := Config.freeRand 0))

theorem test_witness_RandomIsMasked : State.reset.pcUpdated = false ∧ (ran 0xC30F State.reset).map (·.pc) = some 0x202 := by
  decide

/-! ## Index and memory instructions -/

/-- IM1; IM10, IM11, IM12. -/
theorem test_witness_LoadIndexAndGlyph :
    (regs []).pcUpdated = false ∧ (ran 0xA123 (regs [])).map (·.i) = some 0x0123 ∧
    (ran 0xF029 (regs [])).map (·.i) = some 0x0050 ∧ (ran 0xF029 (regs [(0, 0x0F)])).map (·.i) = some 0x009B ∧
    (ran 0xF029 (regs [(0, 0x1A)])).map (·.i) = some 0x0082 := by decide

/-- IM4, IM5, IM6. -/
theorem test_witness_IndexedByV0InBothModes :
    (regs []).pcUpdated = false ∧ Config.default.bnnnMode = .index ∧ jumpMode.bnnnMode = .jump ∧
    (ran 0xBFFF (regs [(0, 0xFF)])).map (fun t => (t.i, t.pc)) = some (0x10FE, 0x202) ∧
    (ran 0xBFFF (under jumpMode (regs [(0, 0xFF)]))).map (fun t => (t.i, t.pc)) = some (0, 0x10FE) ∧
    (ran 0xB300 (under jumpMode (regs [(0, 0x01)]))).map (·.pc) = some 0x0301 := by decide

/-- IM8 and IM9. -/
theorem test_witness_AddToIndexWraps :
    (regs []).pcUpdated = false ∧
    (ran 0xF01E { regs [(0, 1)] with i := 0x0FFF }).map (fun t => (t.i, t.reg vF)) = some (0x1000, 0) ∧
    (ran 0xF01E { regs [(0, 1)] with i := 0xFFFF }).map (·.i) = some 0x0000 := by decide

/-- IM14 and IM17: all three bytes in range, and the last one out of range. -/
theorem test_witness_StoresDecimalDigits :
    let s := { regs [(1, 0xFF)] with i := 0xFFD }
    let t := { regs [(1, 0x7B)] with i := 0xFFE, pc := 0x210 }
    s.pcUpdated = false ∧ Memory.wf s.cfg s.mem ∧ s.dataAddr 2 < memSize ∧
    (ran 0xF133 s).map (fun t => (t.byteAt 0xFFD, t.byteAt 0xFFE, t.byteAt 0xFFF)) = some (2, 5, 5) ∧
    t.dataAddr 1 < memSize ∧ (ran 0xF133 t).map (fun u => (u.byteAt 0xFFE, u.byteAt 0xFFF, u.diagLog, u.i)) =
      some (1, 2, [⟨.memWriteOob, 0x1000, 0x210⟩], 0xFFE) := by decide

/-- IM19 and IM21, and at the end of memory. -/
theorem test_witness_StoresRegisterRange :
    let s := { regs [(0, 0x11), (1, 0x22)] with i := 0x400 }
    let t := { regs [(0, 0x11), (1, 0x22)] with i := 0xFFF }
    s.pcUpdated = false ∧ Memory.wf s.cfg s.mem ∧ (1 : Reg) ≤ 1 ∧ s.dataAddr 1 < memSize ∧
    (ran 0xF155 s).map (fun t => (t.byteAt 0x400, t.byteAt 0x401, t.i)) = some (0x11, 0x22, 0x400) ∧
    (ran 0xF055 s).map (fun t => (t.byteAt 0x400, t.byteAt 0x401)) = some (0x11, 0) ∧
    (ran 0xF155 t).map (fun u => (u.byteAt 0xFFF, u.diagLog)) = some (0x11, [⟨.memWriteOob, 0x1000, 0x200⟩]) := by decide

/-- IM22 and IM23 (the free value itself is not tested). -/
theorem test_witness_LoadsRegisterRange :
    let s := poke 0x400 [0x11, 0x22] { State.reset with i := 0x400 }
    let t := poke 0xFFF [0x5C] { State.reset with i := 0xFFF }
    s.pcUpdated = false ∧ (0 : Reg) ≤ 1 ∧ (1 : Reg) < 2 ∧
    (ran 0xF165 s).map (fun u => (u.reg 0, u.reg 1, u.i)) = some (0x11, 0x22, 0x400) ∧
    (ran 0xF165 t).map (fun u => (u.reg 0, u.diagLog, u.draws)) = some (0x5C, [⟨.memReadOob, 0x1000, 0x200⟩], 1) ∧
    (ran 0xF165 t).map (·.outputs) = some [.diag ⟨.memReadOob, 0x1000, 0x200⟩] := by decide

/-! ## Display -/

/-- DS1. -/
theorem test_witness_ClearEmptiesDisplay :
    let s := { regs [(15, 9)] with fb := flipPixel State.reset.fb 63 31 }
    s.pcUpdated = false ∧ s.pixel 63 31 = true ∧
    (ran 0x00E0 s).map (fun t => (t.pixel 63 31, t.reg vF)) = some (false, 9) := by decide

/-- DS2 with R187's packed bytes, and DS3: both wraps. -/
theorem test_witness_DrawFlipsSpritePixels :
    let s := poke 0x300 [0xFF] { regs [(0, 60), (1, 31)] with i := 0x300 }
    s.pcUpdated = false ∧ s.cfg.wf = true ∧ FbShape s.cfg s.fb ∧
    (ran 0xD011 s).map (fun t => (packedByteOf t.fb 31 7, packedByteOf t.fb 31 0, t.reg vF)) = some (0x0F, 0xF0, 0) ∧
    s.rowHits 60 31 3 31 0 = true ∧ (ran 0xD011 s).map (·.outputs) = some [.fbDrawRow 60 31 0xFF false] := by decide

/-- DS6 and DS8: N = 0; a collision. -/
theorem test_draw_collision :
    let s := poke 0x300 [0xF0] { regs [(15, 7)] with i := 0x300, fb := flipPixel State.reset.fb 3 0 }
    (ran 0xD010 s).map (fun t => (lit t 0, t.reg vF)) = some ([3], 0) ∧
    (ran 0xD011 s).map (fun t => (lit t 0, t.reg vF)) = some ([0, 1, 2], 1) := by decide

/-- DS14 on a display of two rows: the third row (N > H) wraps onto the first. -/
theorem test_draw_more_rows_than_display :
    let s := poke 0x300 [0x80, 0x80, 0x80] { State.initial small with i := 0x300 }
    s.cfg.wf = true ∧ (ran 0xD003 s).map (fun t => (lit t 0, lit t 1, t.reg vF)) = some ([], [0], 1) := by decide

/-- DS3 and DS4. -/
theorem test_witness_DrawTwiceRestoresDisplay :
    let s := poke 0x300 [0xFF] { regs [(0, 60), (1, 31)] with i := 0x300 }
    s.cfg.wf = true ∧ FbShape s.cfg s.fb ∧ s.dataAddr 1 ≤ memSize ∧ (1 : BitVec 4).toNat ≤ s.cfg.displayH ∧
    (after (exec (.opDXYN 0 1 1) s)).isSome = true ∧
    ((after (exec (.opDXYN 0 1 1) s)).bind fun t => (after (exec (.opDXYN 0 1 1) t)).map
      fun v => (decide (v.fb = s.fb), t.reg vF, v.reg vF)) = some (true, 0, 1) := by decide

/-- DS15: x = 61 and W = 64, and the narrowest display, where the next byte is the same one. -/
theorem test_witness_PackedRowXorIsDrawRow :
    Config.default.wf = true ∧ FbShape Config.default State.reset.fb ∧ small.wf = true ∧
    FbShape small (State.initial small).fb ∧
    packedHi 64 61 0xFF = 0x07 ∧ packedLo 64 61 0xFF = 0xF8 ∧ packedColumn 64 61 = 7 ∧ packedNextColumn 64 61 = 0 ∧
    packedByteOf (drawRow 8 2 5 1 0xFF (State.initial small).fb).2 1 0 = 0xFF := by decide

/-- The port's bytes, row-major: pixel (0, 1) of an 8 x 2 display is bit 7 of byte 1. -/
theorem test_packed_framebuffer :
    { State.initial small with fb := flipPixel (State.initial small).fb 0 1 }.packedFramebuffer = [0x00, 0x80] := by decide

/-! ## Keys and timers -/

/-- TI1 to TI5, and key 0xF. -/
theorem test_witness_KeySkips :
    let s := { regs [(5, 0x0A)] with key := State.reset.key.set 10 true }
    s.pcUpdated = false ∧
    (ran 0xE59E s).map (·.pc) = some 0x204 ∧ (ran 0xE59E (regs [(5, 0x0A)])).map (·.pc) = some 0x202 ∧
    (ran 0xE5A1 (regs [(5, 0x0F)])).map (fun t => (t.pc, t.diagLog)) = some (0x204, []) ∧
    (ran 0xE59E (regs [(5, 0x10)])).map (fun t => (t.pc, t.diagLog)) = some (0x202, [⟨.keyRange, 0x10, 0x200⟩]) ∧
    (ran 0xE5A1 (regs [(5, 0x10)])).map (fun t => (t.pc, t.diagLog)) = some (0x204, [⟨.keyRange, 0x10, 0x200⟩]) := by decide

/-- TI6 and TI7. -/
theorem test_witness_DelayTimerReadAndWrite :
    State.reset.pcUpdated = false ∧ (ran 0xF307 { State.reset with dt := 0x2A }).map (·.reg 3) = some 0x2A ∧
    (ran 0xF315 (regs [(3, 0x3C)])).map (·.dt) = some 0x3C := by decide

/-- TI11 to TI14. -/
theorem test_witness_SoundTimerWrite :
    State.reset.pcUpdated = false ∧
    (ran 0xF418 (regs [(4, 5)])).map (fun t => (t.st, t.tone, t.outputs)) = some (5, true, [.tone true]) ∧
    (ran 0xF418 { regs [(4, 5)] with st := 2, tone := true }).map (fun t => (t.st, t.tone, t.outputs)) =
      some (5, true, []) ∧
    (ran 0xF418 { regs [] with st := 3, tone := true }).map (fun t => (t.st, t.tone, t.outputs)) =
      some (0, false, [.tone false]) ∧
    (ran 0xF418 (regs [])).map (fun t => (t.st, t.tone, t.outputs)) = some (0, false, []) := by decide

/-- TI17, TI18, TI19: none, the lowest of two, key 0; and key 0xF alone. -/
theorem test_witness_WaitForKey :
    let s := { State.reset with pc := 0x220, key := (State.reset.key.set 7 true).set 12 true }
    State.reset.pcUpdated = false ∧ (∀ k < 16, State.reset.keyDown k = false) ∧
    (ran 0xF20A { State.reset with pc := 0x220 }).map (fun t => (t.reg 2, t.pc)) = some (0, 0x220) ∧
    s.pcUpdated = false ∧ s.keyDown 7 = true ∧ (∀ j < 7, s.keyDown j = false) ∧
    (ran 0xF20A s).map (fun t => (t.reg 2, t.pc)) = some (7, 0x222) ∧
    (ran 0xFF0A { State.reset with key := State.reset.key.set 0 true }).map (·.reg vF) = some 0 ∧
    (ran 0xF20A { State.reset with key := State.reset.key.set 15 true }).map (·.reg 2) = some 15 := by decide

/-! ## The other agents -/

/-- TI15, TI16, and no step at 0. -/
theorem test_witness_SoundTick :
    let s := { State.reset with st := 1, tone := true, schedule := [.soundTick] }
    s.live = true ∧ s.nextAgent = .soundTick ∧
    (after (step s)).map (fun t => (t.st, t.tone, t.outputs)) = some (0, false, [.tone false]) ∧
    (moved .soundTick { s with st := 2 }).map (fun t => (t.st, t.tone, t.outputs)) = some (1, true, []) ∧
    (moved .soundTick State.reset).map (fun t => (t.st, t.outputs)) = some (0, []) := by decide

/-- TI9, TI10, TI22. -/
theorem test_witness_DelayTick :
    let s := { State.reset with dt := 1, run := .halted .stackOverflow, schedule := [.delayTick] }
    s.live = true ∧ s.nextAgent = .delayTick ∧ (after (step s)).map (·.dt) = some 0 ∧
    (moved .delayTick State.reset).map (·.dt) = some 0 := by decide

/-- TI20, TI21, and a shutdown request in every other run state. -/
theorem test_witness_HostKeysAndShutdown :
    let s := { State.reset with schedule := [.host (.setKey 15 true)] }
    let d := { State.reset with schedule := [.host .shutdown] }
    s.live = true ∧ s.nextAgent = .host (.setKey 15 true) ∧
    (after (step s)).map (fun t => (t.keyDown 15, t.keyDown 14)) = some (true, false) ∧
    d.live = true ∧ d.nextAgent = .host .shutdown ∧ d.run = .running ∧ (after (step d)).map (·.run) = some .shutdown ∧
    (after (step { d with run := .idle })).map (·.run) = some .shutdown ∧
    (after (step { d with run := .shutdown })).map (·.run) = some .shutdown ∧
    (after (step { d with run := .halted .stackOverflow })).map (·.run) = some (.halted .stackOverflow) := by decide

/-- RS1 and RS8. -/
theorem test_witness_ResetWithRom :
    let s := { regs [(3, 9)] with st := 4, tone := true, schedule := [.host (.load (.image [0x12, 0x00]))] }
    s.nextAgent = .host (.load (.image [0x12, 0x00])) ∧ s.cfg.romIntegrityCheck = true ∧
    (after (step s)).map (fun t => (t.pc, t.romEnd, t.reg 3)) = some (0x200, 0x202, 0) ∧
    (after (step s)).map (fun t => (t.st, t.outputs, t.fetchWord)) = some (0, [.tone false], 0x1200) := by decide

/-- RS2 and RS6: no ROM, and an odd one with the check off. -/
theorem test_reset_with_empty_and_odd_rom :
    (moved (.host (.load (.image []))) { State.reset with live := false }).map (fun t => (t.romEnd, t.live)) =
      some (0x200, true) ∧
    (moved (.host (.load (.image [1, 2, 3]))) (under { Config.default with romIntegrityCheck := false } State.reset)).map
      (fun t => (t.romEnd, t.byteAt 0x202)) = some (0x203, 3) := by decide

/-- RS3, RS4, RS7: the largest ROM, and one byte more. -/
theorem test_rom_size_limit :
    (∀ rom : List Byte, rom.length = 3584 → checkRom Config.default (.image rom) = .ok rom) ∧
    (∀ rom : List Byte, rom.length = 3585 → checkRom Config.default (.image rom) = .error .romTooLarge) :=
  ⟨fun rom h => by simp [checkRom, romMax, h], fun rom h => by simp [checkRom, romMax, h]⟩

/-- RS5, and an unreadable source; RS4's premise. -/
theorem test_witness_RefusedRomLeavesNoVm :
    let s := { State.reset with schedule := [.host (.load (.image [1, 2, 3]))] }
    let u := { State.reset with schedule := [.host (.load .unreadable)] }
    s.nextAgent = .host (.load (.image [1, 2, 3])) ∧ [1, 2, 3].length ≤ 3584 ∧ s.cfg.romIntegrityCheck = true ∧
    [1, 2, 3].length % 2 = 1 ∧
    (after (step s)).map (fun t => (t.live, t.outputs)) = some (false, [.error (.construction .romOddLength)]) ∧
    u.nextAgent = .host (.load .unreadable) ∧
    (after (step u)).map (fun t => (t.live, t.outputs)) = some (false, [.error (.construction .romUnreadable)]) := by decide

theorem test_witness_RefusedRomLeavesNoVm_too_large : ∃ (s : State) (rom : List Byte),
    s.nextAgent = .host (.load (.image rom)) ∧ 3584 < rom.length :=
  ⟨{ State.reset with schedule := [.host (.load (.image (List.replicate 3585 0)))] }, List.replicate 3585 0, rfl,
    Nat.lt_of_lt_of_eq (by decide) List.length_replicate.symm⟩

/-- R265. -/
theorem test_witness_TeardownStopsEveryAgent :
    let s := { State.reset with schedule := [.host .teardown] }
    s.live = true ∧ s.nextAgent = .host .teardown ∧ (after (step s)).map (·.live) = some false ∧
    (moved .cpu { State.reset with live := false }) = none ∧ (moved .delayTick { State.reset with live := false }) = none := by
  decide

theorem test_witness_TeardownStopsEveryAgent_no_load :
    let s := { State.reset with live := false }
    s.live = false ∧ ∀ rom, s.nextAgent ≠ .host (.load rom) := ⟨rfl, fun _ h => AgentStep.noConfusion h⟩

/-! ## Rules of the whole machine -/

/-- A state with the tone on, from the reset's history. -/
def sounding : State := { State.reset with st := 1, tone := true, outputs := [.tone true], schedule := [.soundTick] }

theorem test_witness_ToneEventsExactlyOnChange :
    sounding.toneFollowsSound ∧ alternatesFrom false (toneEvents sounding.outputs) = true ∧
    (toneEvents sounding.outputs).getLastD false = sounding.tone ∧
    (after (step sounding)).map (fun t => toneEvents t.outputs) = some [true, false] := by decide

theorem test_witness_InvariantHoldsAtReset : small.wf = true ∧ (State.initial small).Inv := by decide

theorem test_witness_StepKeepsInvariant :
    let s := (regs [(4, 5)]).withFetchWord 16 0xF418
    s.Inv ∧ (after (step s)).isSome = true ∧ (after (step s)).map (fun t => decide t.Inv) = some true := by decide

theorem test_witness_InstructionWritesOnlyWhatIsListed :
    (after (exec (.opFX55 1) { State.reset with i := 0xFFF })).isSome = true := by decide

theorem test_witness_UnreadRegisterHasNoInfluence :
    (2 : Reg) ∉ readRegs (.op8XY4 0 1) ∧ (2 : Reg) ∉ (written State.reset (.op8XY4 0 1)).regs ∧
    (15 : Reg) ∉ readRegs (.opFX55 14) ∧ (15 : Reg) ∉ (written State.reset (.opFX55 14)).regs := by decide

theorem test_witness_OnlyStoresAndResetChangeMemory :
    let s := { regs [(0, 5)] with i := 0x300 }.withFetchWord 16 0xF055
    (after (step s)).map (fun t => decide (t.byteAt 0x300 ≠ s.byteAt 0x300)) = some true := by decide

theorem test_witness_ConfigurationRomEndAndKeysAreTheHosts :
    (after (step State.reset)).isSome = true ∧ State.reset.nextAgent = .cpu := by decide

/-- A running engine at the word 1200 at 0x200, a jump to itself (CF4), with DT = 1. -/
def looping (d : Byte) : State := { poke 0x200 [0x12, 0x00] State.reset with romEnd := 0x202, dt := d, pcUpdated := true }

/-- An execution of it: a CPU step, a delay tick, and CPU steps for ever. -/
def loopStates (n : Nat) : State := looping (if n ≤ 1 then 1 else 0)
def loopAgents (n : Nat) : AgentStep := if n = 1 then .delayTick else .cpu

theorem test_looping_decodes (d : Byte) :
    decode (looping d).cfg.strictDecode (looping d).fetchWord = .instr (.op1NNN 0x200) := by
  rw [show (looping d).fetchWord = (looping 0).fetchWord from rfl, show (looping d).cfg = (looping 0).cfg from rfl]
  decide

theorem test_looping_cpu_step (d : Byte) : (looping d).blockStep .cpu = .next (looping d) := by
  rw [State.blockStep_of_live rfl, agentStep, cpuStep_of_running rfl]
  rcases cycle_cases (looping d) with ⟨h, _⟩ | ⟨_, h, _⟩ | ⟨_, _, ⟨i, h, e⟩ | ⟨_, h, _⟩⟩
  · exact absurd h (by rw [show (looping d).pc = 0x200 from rfl, show (looping d).romEnd = 0x202 from rfl]; decide)
  · exact absurd h (by rw [show (looping d).pc = 0x200 from rfl]; decide)
  · rw [test_looping_decodes] at h
    cases h
    rw [e]
    rfl
  · rw [test_looping_decodes] at h
    cases h

theorem test_looping_runs_no_other (d : Byte) (x : Reg) :
    ¬ (looping d).Runs (.opFX15 x) ∧ ¬ (looping d).Runs (.opFX18 x) ∧ ¬ (looping d).Runs (.opFX0A x) := by
  have h := test_looping_decodes d
  refine ⟨fun r => ?_, fun r => ?_, fun r => ?_⟩ <;> exact absurd (h.symm.trans r.2.2.2) (by simp)

theorem test_loop_is_execution : IsExecution loopStates loopAgents := by
  intro n
  rcases n with _ | _ | n
  · rfl
  · rfl
  · rw [show loopAgents (n + 2) = .cpu from if_neg (by omega)]
    simp only [loopStates, show ¬ n + 2 ≤ 1 by omega, show ¬ n + 2 + 1 ≤ 1 by omega, if_false]
    exact test_looping_cpu_step 0

theorem test_loop_is_weakly_fair : WeaklyFair loopStates loopAgents := by
  intro g hg n h k
  cases g with
  | cpu => exact ⟨k + 2, by omega, by rw [loopAgents, if_neg (by omega)]; rfl⟩
  | delayTimer =>
    refine absurd (h (n + 2) (by omega)).2 ?_
    rw [loopStates, if_neg (by omega)]
    decide
  | soundTimer => exact absurd (show (State.reset).st = 0 from rfl) (h n (le_refl n)).2
  | host => exact absurd rfl hg

theorem test_witness_DelayTimerNeverRisesWithoutFX15 :
    (after (step { State.reset with dt := 9 })).isSome = true ∧
    (∀ x, State.reset.nextAgent = .cpu → ¬ State.reset.Runs (.opFX15 x)) ∧
    IsExecution loopStates loopAgents ∧ WeaklyFair loopStates loopAgents ∧
    ∀ m, 0 ≤ m → (loopStates m).live = true ∧ ∀ x, loopAgents m = .cpu → ¬ (loopStates m).Runs (.opFX15 x) :=
  ⟨by decide, fun x _ h => absurd h.2.1 (by decide), test_loop_is_execution, test_loop_is_weakly_fair,
    fun _ _ => ⟨rfl, fun x _ => (test_looping_runs_no_other _ x).1⟩⟩

theorem test_witness_EveryInterleavingIsARun :
    IsExecution loopStates loopAgents ∧ WeaklyFair loopStates loopAgents ∧
    (∀ m, 0 ≤ m → (loopStates m).live = true) ∧
    (∀ m x, 0 ≤ m → loopAgents m = .cpu → ¬ (loopStates m).Runs (.opFX18 x)) ∧
    (∀ m, 0 ≤ m → (loopStates m).run = .running ∧ ¬ (loopStates m).Holds) :=
  ⟨test_loop_is_execution, test_loop_is_weakly_fair, fun _ _ => rfl, fun _ x _ _ => (test_looping_runs_no_other _ x).2.1,
    fun _ _ => ⟨rfl, fun h => h.1.elim fun x hx => (test_looping_runs_no_other _ x).2.2 hx⟩⟩

/-- Two states that differ in the flag, the log and the diag port alone; an UNKNOWN word is logged in one of them only. -/
theorem test_witness_DiagnosticsChangeLoggingOnly :
    let s := (State.initial small).withFetchWord 16 0x0123
    let t := { under { small with diagEnabled := false } s with diagLog := [⟨.keyRange, 16, 0⟩] }
    s.butLogging = t.butLogging ∧ t.cfg.diagEnabled = false ∧ (after (cpuStep t)).isSome = true ∧
    (after (step s)).map (fun u => u.diagLog.length) = some 1 ∧ (after (step t)).map (fun u => u.diagLog.length) = some 1 := by
  decide

/-- P5's last step: the 17th nested CALL. -/
theorem test_witness_OnlyStackErrorsHalt :
    let s := { State.reset with sp := 16 }.withFetchWord 16 0x2200
    s.Inv ∧ s.run.isHalted = false ∧ (after (step s)).map (·.run) = some (.halted .stackOverflow) := by decide

/-- CF2. -/
theorem test_witness_OnlyStackErrorsHalt_underflow :
    let s := State.reset.withFetchWord 16 0x00EE
    s.Inv ∧ s.run.isHalted = false ∧ (after (step s)).map (·.run) = some (.halted .stackUnderflow) := by decide

/-! ## Memory accesses and their order (P7) -/

/-- P7: a store is seen by the next fetch. -/
theorem test_store_then_fetch :
    let s := poke 0x204 [0xF0, 0x55, 0x00, 0x0C] { regs [(0, 0x12)] with pc := 0x204, i := 0x206, romEnd := 0x20E }
    ((after (step s)).bind fun t => after (step t)).map (·.pc) = some 0x20C := by decide

end Sys2Proof.Tests
end

section
/-! PROOF. What executing an instruction answers: a next state, framed by the spec's writers (R22, R27, R32); the fields that
only a few instructions touch (PC_UPDATED, memory). -/

namespace Sys2Proof.Machine

/-! ## Widening a frame -/

/-- Everything `c` lists, `d` lists too. -/
def MayChange.Within (c d : MayChange) : Prop :=
  c.regs ⊆ d.regs ∧ c.mem ⊆ d.mem ∧ (d.i = false → c.i = false) ∧ (d.stack = false → c.stack = false) ∧
    (d.delay = false → c.delay = false) ∧ (d.sound = false → c.sound = false) ∧ (d.fb = false → c.fb = false) ∧
    (d.run = false → c.run = false) ∧ (d.key = false → c.key = false) ∧ (d.log = false → c.log = false) ∧
    (d.ports = false → c.ports = false) ∧ (d.draws = false → c.draws = false)

theorem Frame.widen {c d : MayChange} {s t : State} (h : Frame c s t) (hcd : c.Within d) : Frame d s t := by
  obtain ⟨regs, mem, i, stack, delay, sound, fb, run, key, log, ports, draws⟩ := hcd
  exact h.mono regs mem i stack delay sound fb run key log ports draws

/-! ## Frames of the stack, the random draw and the key test -/

theorem State.setStack_frame (s : State) (entries : Vector Word 16) (depth : Fin 17) :
    Frame { stack := true } s { s with stack := entries, sp := depth } :=
  { Frame.refl { stack := true } s with sp := nofun, stack := nofun }

theorem State.countDraw_frame (s : State) : Frame { draws := true } s s.countDraw :=
  { Frame.refl { draws := true } s with draws := nofun }

/-- The key test changes the log and the ports at most (R206). -/
theorem State.keyPressed_frame (s : State) (b : Byte) : Frame { log := true, ports := true } s (s.keyPressed b).2 := by
  rcases s.keyPressed_cases b with ⟨-, e⟩ | ⟨-, e⟩ <;> rw [e]
  · exact Frame.refl _ _
  · exact s.diag_frame _ _

theorem State.keyPressed_pcUpdated (s : State) (b : Byte) : (s.keyPressed b).2.pcUpdated = s.pcUpdated := by
  rcases s.keyPressed_cases b with ⟨-, e⟩ | ⟨-, e⟩ <;> rw [e]
  rfl

theorem State.keyPressed_mem (s : State) (b : Byte) : (s.keyPressed b).2.mem = s.mem := by
  rcases s.keyPressed_cases b with ⟨-, e⟩ | ⟨-, e⟩ <;> rw [e]
  rfl

theorem State.shiftWithFlag_mem (s : State) (x : Reg) (f g : Byte → Byte) : (s.shiftWithFlag x f g).mem = s.mem := by
  unfold State.shiftWithFlag
  split <;> rfl

/-! ## The two instructions with alternatives of their own -/

/-- All that BNNN can do: one effect for each BNNN_MODE (R161). -/
theorem execBNNN_cases (nnn : BitVec 12) (s : State) :
    (s.cfg.bnnnMode = .index ∧ execBNNN nnn s = complete (s.setI (indexedTarget s nnn))) ∨
    (s.cfg.bnnnMode = .jump ∧ execBNNN nnn s = complete (s.jumpTo (indexedTarget s nnn))) := by
  unfold execBNNN
  cases s.cfg.bnnnMode with
  | index => exact .inl ⟨rfl, rfl⟩
  | jump => exact .inr ⟨rfl, rfl⟩

/-- All that FX0A can do: hold while no key is down, or take the lowest pressed key (R205). -/
theorem execFX0A_cases (x : Reg) (s : State) :
    (s.lowestKey = none ∧ execFX0A x s = .next s) ∨
    (∃ k, s.lowestKey = some k ∧ execFX0A x s = complete (s.setReg x (BitVec.ofNat 8 k))) := by
  unfold execFX0A
  cases s.lowestKey with
  | none => exact .inl ⟨rfl, rfl⟩
  | some k => exact .inr ⟨k, rfl, rfl⟩

/-! ## The effect of an instruction -/

/-- The answer is a next state that differs from `s` only in what `c` lists. -/
def AnswersWithin (c : MayChange) (s : State) (a : Answer) : Prop := ∃ t, a = .next t ∧ Frame c s t

theorem complete_answersWithin {c : MayChange} {s u : State} (h : Frame c s u) : AnswersWithin c s (complete u) :=
  ⟨_, rfl, h.advance⟩

/-- A push onto the stack, then a jump (CALL): within the stack or, where it is full, RUN and the error port. -/
theorem push_jump_answersWithin (s : State) (w target : Word) :
    AnswersWithin { stack := true, run := true, ports := true } s
      (s.push w fun u => complete (u.jumpTo target)) := by
  rcases s.push_cases w fun u => complete (u.jumpTo target) with ⟨_, e⟩ | ⟨-, e⟩ <;> rw [e]
  · refine complete_answersWithin (Frame.trans ((s.setStack_frame _ _).widen ?_) ((State.jumpTo_frame _ _).widen ?_)) <;>
      simp [MayChange.Within]
  · exact ⟨_, rfl, (s.raiseFatalAtInstr_frame _).widen (by simp [MayChange.Within])⟩

/-- A pop, then a jump to the popped address (RETURN): within the stack or, where it is empty, RUN and the error port. -/
theorem pop_jump_answersWithin (s : State) :
    AnswersWithin { stack := true, run := true, ports := true } s
      (s.pop fun target u => complete (u.jumpTo target)) := by
  rcases s.pop_cases fun target u => complete (u.jumpTo target) with ⟨_, e⟩ | ⟨-, e⟩ <;> rw [e]
  · refine complete_answersWithin
      (Frame.trans ((s.setStack_frame s.stack _).widen ?_) ((State.jumpTo_frame _ _).widen ?_)) <;>
      simp [MayChange.Within]
  · exact ⟨_, rfl, (s.raiseFatalAtInstr_frame _).widen (by simp [MayChange.Within])⟩

theorem execBNNN_answersWithin (nnn : BitVec 12) (s : State) :
    AnswersWithin (written s (.opBNNN nnn)) s (execBNNN nnn s) := by
  rcases execBNNN_cases nnn s with ⟨hm, e⟩ | ⟨hm, e⟩ <;> rw [e, written, hm]
  · exact complete_answersWithin (s.setI_frame _)
  · exact complete_answersWithin (s.jumpTo_frame _)

theorem execFX0A_answersWithin (x : Reg) (s : State) : AnswersWithin (written s (.opFX0A x)) s (execFX0A x s) := by
  rcases execFX0A_cases x s with ⟨-, e⟩ | ⟨k, -, e⟩ <;> rw [e]
  · exact ⟨s, rfl, Frame.refl _ _⟩
  · exact complete_answersWithin (s.setReg_frame x _)

theorem execCXNN_answersWithin (x : Reg) (nn : Byte) (s : State) :
    AnswersWithin (written s (.opCXNN x nn)) s (execCXNN x nn s) := by
  refine complete_answersWithin (Frame.trans (s.countDraw_frame.widen ?_) ((State.setReg_frame _ x _).widen ?_)) <;>
    simp [MayChange.Within, written]

theorem execDXYN_answersWithin (x y : Reg) (n : BitVec 4) (s : State) :
    AnswersWithin (written s (.opDXYN x y n)) s (execDXYN x y n s) := by
  refine complete_answersWithin
    (Frame.trans ((drawSprite_frame _ _ _ _ s).widen ?_) ((State.setReg_frame _ vF _).widen ?_)) <;>
    simp [MayChange.Within, written]

theorem key_skip_answersWithin (s : State) (b : Byte) (cond : Bool) :
    AnswersWithin { log := true, ports := true } s (complete ((s.keyPressed b).2.skipIf cond)) :=
  complete_answersWithin ((s.keyPressed_frame b).trans ((State.skipIf_frame _ cond).widen (by simp [MayChange.Within])))

/-- Stores of `n` bytes from I on stay within the addresses stored to, the log and the ports (R53). -/
theorem store_answersWithin (s : State) (bs : List Byte) {n : Nat} (hn : bs.length = n) :
    AnswersWithin { log := true, ports := true, mem := (List.range n).map s.dataAddr } s
      (complete (storeBytes 0 bs s)) := by
  rw [← hn, List.range_eq_range']
  exact complete_answersWithin (storeBytes_frame bs 0 s)

/-- Every instruction answers a next state, within the writers that the spec lists for it (R22, R27, R32). -/
theorem exec_answersWithin (i : Instr) (s : State) : AnswersWithin (written s i) s (exec i s) := by
  cases i with
  | op00E0 => exact complete_answersWithin s.fbClear_frame
  | op00EE => exact pop_jump_answersWithin s
  | op1NNN nnn => exact complete_answersWithin (s.jumpTo_frame _)
  | op2NNN nnn => exact push_jump_answersWithin s _ _
  | op3XNN x nn | op4XNN x nn => exact complete_answersWithin (s.skipIf_frame _)
  | op5XY0 x y | op9XY0 x y => exact complete_answersWithin (s.skipIf_frame _)
  | op6XNN x nn | op7XNN x nn => exact complete_answersWithin (s.setReg_frame x _)
  | op8XY0 x y | op8XY1 x y | op8XY2 x y | op8XY3 x y => exact complete_answersWithin (s.setReg_frame x _)
  | op8XY4 x y | op8XY5 x y | op8XY7 x y => exact complete_answersWithin (s.resultThenFlag_frame x _ _)
  | op8XY6 x | op8XYE x => exact complete_answersWithin (s.shiftWithFlag_frame x _ _)
  | opANNN nnn => exact complete_answersWithin (s.setI_frame _)
  | opBNNN nnn => exact execBNNN_answersWithin nnn s
  | opCXNN x nn => exact execCXNN_answersWithin x nn s
  | opDXYN x y n => exact execDXYN_answersWithin x y n s
  | opEX9E x | opEXA1 x => exact key_skip_answersWithin s _ _
  | opFX07 x => exact complete_answersWithin (s.setReg_frame x _)
  | opFX0A x => exact execFX0A_answersWithin x s
  | opFX15 x => exact complete_answersWithin (s.setDelay_frame _)
  | opFX18 x => exact complete_answersWithin (s.setSound_frame _)
  | opFX1E x | opFX29 x => exact complete_answersWithin (s.setI_frame _)
  | opFX33 x => exact store_answersWithin s _ rfl
  | opFX55 x => exact store_answersWithin s _ (by rw [List.length_map, regsUpTo_length])
  | opFX65 x => exact complete_answersWithin (loadRegs_frame _ s)

theorem exec_frame {i : Instr} {s t : State} (e : exec i s = .next t) : Frame (written s i) s t := by
  obtain ⟨u, hu, hf⟩ := exec_answersWithin i s
  cases hu.symm.trans e
  exact hf

theorem exec_eq_next (i : Instr) (s : State) : ∃ t, exec i s = .next t :=
  (exec_answersWithin i s).imp fun _ h => h.1

/-- No instruction lists KEY among what it writes (R31). -/
theorem written_key (s : State) (i : Instr) : (written s i).key = false := by
  cases i <;> rfl

/-! ## PC_UPDATED -/

theorem execBNNN_pcUpdated {nnn : BitVec 12} {s t : State} (e : execBNNN nnn s = .next t)
    (hs : setsPcUpdated s (.opBNNN nnn) = false) : t.pcUpdated = s.pcUpdated := by
  rcases execBNNN_cases nnn s with ⟨-, he⟩ | ⟨hm, -⟩
  · cases he.symm.trans e
    rfl
  · simp [setsPcUpdated, hm] at hs

theorem execFX0A_pcUpdated {x : Reg} {s t : State} (e : execFX0A x s = .next t) : t.pcUpdated = s.pcUpdated := by
  rcases execFX0A_cases x s with ⟨-, he⟩ | ⟨k, -, he⟩ <;> cases he.symm.trans e <;> rfl

/-- Only 00EE, 1NNN, 2NNN and BNNN in JUMP mode set PC_UPDATED (R35). -/
theorem exec_pcUpdated {i : Instr} {s t : State} (e : exec i s = .next t) (hs : setsPcUpdated s i = false) :
    t.pcUpdated = s.pcUpdated := by
  cases i with
  | op00EE | op1NNN nnn | op2NNN nnn => exact absurd hs (by simp [setsPcUpdated])
  | opBNNN nnn => exact execBNNN_pcUpdated e hs
  | opFX0A x => exact execFX0A_pcUpdated e
  | op8XY6 x | op8XYE x => cases e; exact s.shiftWithFlag_pcUpdated x _ _
  | opDXYN x y n => cases e; exact drawSprite_pcUpdated _ _ _ _ s
  | opEX9E x | opEXA1 x => cases e; exact s.keyPressed_pcUpdated _
  | opFX33 x | opFX55 x => cases e; exact storeBytes_pcUpdated _ _ s
  | opFX65 x => cases e; exact loadRegs_pcUpdated _ s
  | _ => cases e; rfl

/-! ## Memory -/

theorem push_jump_mem {s t : State} {w target : Word}
    (e : (s.push w fun u => complete (u.jumpTo target)) = .next t) : t.mem = s.mem := by
  rcases s.push_cases w fun u => complete (u.jumpTo target) with ⟨_, he⟩ | ⟨-, he⟩ <;> cases he.symm.trans e <;> rfl

theorem pop_jump_mem {s t : State} (e : (s.pop fun target u => complete (u.jumpTo target)) = .next t) :
    t.mem = s.mem := by
  rcases s.pop_cases fun target u => complete (u.jumpTo target) with ⟨-, he⟩ | ⟨-, he⟩ <;> cases he.symm.trans e <;> rfl

theorem execBNNN_mem {nnn : BitVec 12} {s t : State} (e : execBNNN nnn s = .next t) : t.mem = s.mem := by
  rcases execBNNN_cases nnn s with ⟨-, he⟩ | ⟨-, he⟩ <;> cases he.symm.trans e <;> rfl

theorem execFX0A_mem {x : Reg} {s t : State} (e : execFX0A x s = .next t) : t.mem = s.mem := by
  rcases execFX0A_cases x s with ⟨-, he⟩ | ⟨k, -, he⟩ <;> cases he.symm.trans e <;> rfl

/-- An instruction that stores nowhere keeps the cells of memory themselves, not their bytes alone (R51). -/
theorem exec_mem {i : Instr} {s t : State} (e : exec i s = .next t) (hw : (written s i).mem = []) : t.mem = s.mem := by
  cases i with
  | opFX33 x | opFX55 x => exact absurd hw (by simp [written])
  | op00EE => exact pop_jump_mem e
  | op2NNN nnn => exact push_jump_mem e
  | opBNNN nnn => exact execBNNN_mem e
  | opFX0A x => exact execFX0A_mem e
  | op8XY6 x | op8XYE x => cases e; exact s.shiftWithFlag_mem x _ _
  | opDXYN x y n => cases e; exact drawSprite_mem _ _ _ _ s
  | opEX9E x | opEXA1 x => cases e; exact s.keyPressed_mem _
  | opFX65 x => cases e; exact loadRegs_mem _ s
  | _ => cases e; rfl

/-- Settles O53: the frame of the writers, and PC_UPDATED set by the control transfers alone. -/
theorem instructionWritesOnlyWhatIsListed : Obligations.InstructionWritesOnlyWhatIsListed :=
  fun _ _ _ e => ⟨exec_frame e, exec_pcUpdated e⟩

end Sys2Proof.Machine
end

section
/-! PROOF. What a step of the block can do, and that every step keeps the invariant (R32, R36, R37, R50, R7). -/

namespace Sys2Proof.Machine

/-! ## Inversion of the steps -/

/-- A step that answers a next state is the next agent's step, its place in the schedule used up (R240). -/
theorem agentStep_of_step {s t : State} (e : step s = .next t) :
    agentStep { s with schedule := s.schedule.tail } s.nextAgent = .next t := by
  rcases step_cases s with ⟨h, -⟩ | ⟨h, -, -⟩
  · exact h.symm.trans e
  · cases h.symm.trans e

/-- All that a CPU step can do (R90): nothing when the engine is stopped; IDLE at the end of the ROM (R91), a fatal fetch
(R92), an instruction (R95), or the diagnostic of an UNKNOWN word (R76). -/
theorem cpuStep_cases {s t : State} (e : cpuStep s = .next t) :
    (s.run ≠ .running ∧ t = s) ∨
    (s.run = .running ∧
      (t = { s with run := .idle } ∨ t = s.raiseFatal .fetchOob none ∨
        (∃ i, decode s.cfg.strictDecode s.fetchWord = .instr i ∧ exec i { s with pcUpdated := false } = .next t) ∨
        t = (State.diag { s with pcUpdated := false } .unknownOpcode s.fetchWord.toNat).commonAdvance)) := by
  by_cases hr : s.run = .running
  · rw [cpuStep_of_running hr] at e
    refine .inr ⟨hr, ?_⟩
    rcases cycle_cases s with ⟨-, h⟩ | ⟨-, -, h⟩ | ⟨-, -, ⟨i, hd, h⟩ | ⟨_, -, h⟩⟩
    · cases h.symm.trans e
      exact .inl rfl
    · cases h.symm.trans e
      exact .inr (.inl rfl)
    · exact .inr (.inr (.inl ⟨i, hd, h.symm.trans e⟩))
    · cases h.symm.trans e
      exact .inr (.inr (.inr rfl))
  · cases (cpuStep_of_stopped hr).symm.trans e
    exact .inl ⟨hr, rfl⟩

/-! ## The reset's fields -/

/-- The reset's state but for its memory, which holds the ROM's bytes (R261, R39). -/
theorem State.resetWith_eq (s : State) (rom : List Byte) :
    s.resetWith rom =
      { State.initial s.cfg with
        romEnd := progBase + rom.length
        outputs := if s.tone then s.outputs ++ [.tone false] else s.outputs
        draws := s.draws
        schedule := s.schedule
        mem := (s.resetWith rom).mem } :=
  putBytes_eq rom progBase _

theorem State.resetWith_cfg (s : State) (rom : List Byte) : (s.resetWith rom).cfg = s.cfg := by
  rw [State.resetWith_eq]
  rfl

theorem State.load_cfg (s : State) (rom : RomSource) : (s.load rom).cfg = s.cfg := by
  rcases s.load_cases rom with ⟨bytes, -, -, e⟩ | ⟨_, -, e⟩ <;> rw [e]
  exact s.resetWith_cfg bytes

/-! ## The invariant, part by part -/

theorem exec_keeps_wf {i : Instr} {s t : State} (e : exec i s = .next t) (h : Memory.wf s.cfg s.mem) :
    Memory.wf t.cfg t.mem := by
  cases i with
  | opFX33 x | opFX55 x => cases e; exact storeBytes_keeps_wf _ _ h
  | _ => rw [(exec_frame e).cfg, exec_mem e rfl]; exact h

theorem exec_keeps_shape {i : Instr} {s t : State} (e : exec i s = .next t) (h : FbShape s.cfg s.fb) :
    FbShape t.cfg t.fb := by
  cases i with
  | op00E0 => cases e; exact clear_shape s.cfg
  | opDXYN x y n => cases e; exact drawSprite_keeps_shape _ _ _ _ h
  | _ => rw [(exec_frame e).cfg, (exec_frame e).fb rfl]; exact h

theorem State.setSound_toneFollowsSound {s : State} (b : Byte) (h : s.toneFollowsSound) :
    (s.setSound b).toneFollowsSound := by
  unfold State.toneFollowsSound at *
  by_cases hs : s.st = 0#8 <;> by_cases hb : b = 0#8 <;> simp [State.setSound, h, hs, hb]

theorem exec_keeps_toneFollowsSound {i : Instr} {s t : State} (e : exec i s = .next t) (h : s.toneFollowsSound) :
    t.toneFollowsSound := by
  cases i with
  | opFX18 x => cases e; exact State.setSound_toneFollowsSound _ h
  | _ => unfold State.toneFollowsSound; rw [(exec_frame e).tone rfl, (exec_frame e).st rfl]; exact h

theorem State.soundTick_toneFollowsSound {s : State} (h : s.toneFollowsSound) : s.soundTick.toneFollowsSound := by
  unfold State.toneFollowsSound at *
  by_cases h0 : s.st = 0#8
  · simp [State.soundTick, h, h0]
  · by_cases h1 : s.st = 1#8
    · simp [State.soundTick, h1]
    · have : s.st - 1#8 ≠ 0#8 := by bv_omega
      simp [State.soundTick, h, h0, h1, this]

/-! ## The invariant -/

theorem initial_inv {c : Config} (h : c.wf = true) : (State.initial c).Inv :=
  ⟨h, ⟨List.Pairwise.nil, fun _ hx => absurd hx List.not_mem_nil⟩, clear_shape c, rfl, le_refl progBase,
    show progBase ≤ memSize by decide⟩

theorem exec_keeps_inv {i : Instr} {s t : State} (h : s.Inv) (e : exec i s = .next t) : t.Inv := by
  obtain ⟨hcfg, hmem, hfb, htone, hlow, hhigh⟩ := h
  have hf := exec_frame e
  exact ⟨hf.cfg ▸ hcfg, exec_keeps_wf e hmem, exec_keeps_shape e hfb, exec_keeps_toneFollowsSound e htone,
    hf.romEnd ▸ hlow, hf.romEnd ▸ hhigh⟩

theorem cpuStep_keeps_inv {s t : State} (h : s.Inv) (e : cpuStep s = .next t) : t.Inv := by
  rcases cpuStep_cases e with ⟨-, rfl⟩ | ⟨-, rfl | rfl | ⟨i, -, he⟩ | rfl⟩
  · exact h
  · exact h
  · exact h
  · exact exec_keeps_inv (s := { s with pcUpdated := false }) h he
  · exact h

theorem State.resetWith_inv {s : State} {bytes : List Byte} (h : s.Inv) (hlen : bytes.length ≤ romMax) :
    (s.resetWith bytes).Inv := by
  have hmem := s.resetWith_keeps_wf hlen
  rw [State.resetWith_eq] at hmem ⊢
  refine ⟨h.1, hmem, clear_shape s.cfg, rfl, Nat.le_add_right _ _, ?_⟩
  show progBase + bytes.length ≤ memSize
  simp only [progBase, memSize, romMax] at *
  omega

theorem State.load_keeps_inv {s : State} (rom : RomSource) (h : s.Inv) : (s.load rom).Inv := by
  rcases s.load_cases rom with ⟨bytes, -, hlen, e⟩ | ⟨_, -, e⟩ <;> rw [e]
  · exact State.resetWith_inv h hlen
  · exact h

theorem State.soundTick_keeps_inv {s : State} (h : s.Inv) : s.soundTick.Inv := by
  obtain ⟨hcfg, hmem, hfb, htone, hrom⟩ := h
  exact ⟨hcfg, hmem, hfb, State.soundTick_toneFollowsSound htone, hrom⟩

theorem agentStep_keeps_inv {s t : State} {a : AgentStep} (h : s.Inv) (e : agentStep s a = .next t) : t.Inv := by
  cases a with
  | cpu => exact cpuStep_keeps_inv h e
  | delayTick => cases e; exact h
  | soundTick => cases e; exact State.soundTick_keeps_inv h
  | host act =>
    cases e
    cases act with
    | load rom => exact State.load_keeps_inv rom h
    | setKey _ _ | shutdown | teardown => exact h

/-- Settles O3: whichever agent the schedule names, its step keeps the invariant. -/
theorem stepKeepsInvariant : Obligations.StepKeepsInvariant :=
  fun s _ h e => agentStep_keeps_inv (s := { s with schedule := s.schedule.tail }) h (agentStep_of_step e)

/-- Settles O2: construction under any configuration that keeps R7 meets the invariant, the default one included. -/
theorem invariantHoldsAtReset : Obligations.InvariantHoldsAtReset :=
  ⟨initial_inv (by decide), fun _ => initial_inv⟩

/-! ## What belongs to the host (R33, R36, R31) -/

theorem cpuStep_hostFields {s t : State} (e : cpuStep s = .next t) :
    t.cfg = s.cfg ∧ t.romEnd = s.romEnd ∧ t.key = s.key := by
  rcases cpuStep_cases e with ⟨-, rfl⟩ | ⟨-, rfl | rfl | ⟨i, -, he⟩ | rfl⟩
  · exact ⟨rfl, rfl, rfl⟩
  · exact ⟨rfl, rfl, rfl⟩
  · exact ⟨rfl, rfl, rfl⟩
  · have hf := exec_frame he
    exact ⟨hf.cfg, hf.romEnd, hf.key (written_key _ i)⟩
  · exact ⟨rfl, rfl, rfl⟩

/-- In any agent's step the configuration stands; ROM_END moves by a load and KEY by the host alone. -/
theorem agentStep_hostFields {s t : State} {a : AgentStep} (e : agentStep s a = .next t) :
    t.cfg = s.cfg ∧ ((∀ rom, a ≠ .host (.load rom)) → t.romEnd = s.romEnd) ∧
      ((∀ h, a ≠ .host h) → t.key = s.key) := by
  cases a with
  | cpu =>
    obtain ⟨hcfg, hrom, hkey⟩ := cpuStep_hostFields e
    exact ⟨hcfg, fun _ => hrom, fun _ => hkey⟩
  | delayTick | soundTick =>
    cases e
    exact ⟨rfl, fun _ => rfl, fun _ => rfl⟩
  | host act =>
    cases e
    cases act with
    | load rom => exact ⟨s.load_cfg rom, fun ha => absurd rfl (ha rom), fun ha => absurd rfl (ha _)⟩
    | setKey _ _ | shutdown | teardown => exact ⟨rfl, fun _ => rfl, fun ha => absurd rfl (ha _)⟩

/-- Settles O56 over the step of whichever agent the schedule names. -/
theorem configurationRomEndAndKeysAreTheHosts : Obligations.ConfigurationRomEndAndKeysAreTheHosts :=
  fun s _ e => agentStep_hostFields (s := { s with schedule := s.schedule.tail }) (agentStep_of_step e)

end Sys2Proof.Machine
end

section
/-! PROOF. A register that an instruction neither reads nor writes: every operation commutes with a write to it (R22). -/

namespace Sys2Proof.Machine

/-! ## The operations commute with a write to another register -/

theorem State.setReg_setReg_comm (s : State) {r q : Reg} (h : r ≠ q) (b c : Byte) :
    (s.setReg r b).setReg q c = (s.setReg q c).setReg r b := by
  simp only [State.setReg]
  rw [Vector.set_comm]
  exact fun e => h (Fin.ext e)

section
variable (s : State) (r : Reg) (b : Byte)

theorem State.memRead_setReg (a : Nat) :
    (s.setReg r b).memRead a = ((s.memRead a).1, (s.memRead a).2.setReg r b) := by
  unfold State.memRead
  split <;> rfl

theorem State.memWrite_setReg (a : Nat) (v : Byte) : (s.setReg r b).memWrite a v = (s.memWrite a v).setReg r b := by
  unfold State.memWrite
  split <;> rfl

theorem storeBytes_setReg (bs : List Byte) (k : Nat) :
    storeBytes k bs (s.setReg r b) = (storeBytes k bs s).setReg r b := by
  induction bs generalizing k s with
  | nil => rfl
  | cons c bs ih =>
    rw [storeBytes, State.memWrite_setReg, ih]
    rfl

theorem State.keyPressed_setReg (c : Byte) :
    (s.setReg r b).keyPressed c = ((s.keyPressed c).1, (s.keyPressed c).2.setReg r b) := by
  unfold State.keyPressed
  split <;> rfl

theorem State.drawSpriteRow_setReg (x0 y0 row : Nat) :
    (s.setReg r b).drawSpriteRow x0 y0 row =
      ((s.drawSpriteRow x0 y0 row).1, (s.drawSpriteRow x0 y0 row).2.setReg r b) := by
  have h := s.memRead_setReg r b (s.dataAddr row)
  unfold State.drawSpriteRow
  rw [show (s.setReg r b).dataAddr row = s.dataAddr row from rfl, h]
  rfl

theorem drawSprite_setReg (x0 y0 n row : Nat) :
    drawSprite x0 y0 n row (s.setReg r b) =
      ((drawSprite x0 y0 n row s).1, (drawSprite x0 y0 n row s).2.setReg r b) := by
  induction n generalizing row s with
  | zero => rfl
  | succ n ih =>
    rw [drawSprite, State.drawSpriteRow_setReg, ih]
    rfl

variable {s r b}

theorem loadRegs_setReg {rs : List Reg} (h : r ∉ rs) : loadRegs rs (s.setReg r b) = (loadRegs rs s).setReg r b := by
  induction rs generalizing s with
  | nil => rfl
  | cons q rs ih =>
    obtain ⟨hq, hrs⟩ : r ≠ q ∧ r ∉ rs := by simpa using h
    have hload : (s.setReg r b).loadReg q = (s.loadReg q).setReg r b := by
      unfold State.loadReg
      rw [show (s.setReg r b).dataAddr q.val = s.dataAddr q.val from rfl, State.memRead_setReg]
      exact State.setReg_setReg_comm _ hq _ _
    rw [loadRegs, hload, ih hrs]
    rfl

theorem State.resultThenFlag_setReg {x : Reg} (hx : r ≠ x) (hf : r ≠ vF) (result flag : Byte) :
    (s.setReg r b).resultThenFlag x result flag = (s.resultThenFlag x result flag).setReg r b := by
  unfold State.resultThenFlag
  rw [State.setReg_setReg_comm _ hx, State.setReg_setReg_comm _ hf]

theorem State.flagThenResult_setReg {x : Reg} (hx : r ≠ x) (hf : r ≠ vF) (f g : Byte → Byte) :
    (s.setReg r b).flagThenResult x f g = (s.flagThenResult x f g).setReg r b := by
  unfold State.flagThenResult
  rw [State.reg_setReg_ne _ _ hx, State.setReg_setReg_comm _ hf, State.reg_setReg_ne _ _ hx,
    State.setReg_setReg_comm _ hx]

theorem State.shiftWithFlag_setReg {x : Reg} (hx : r ≠ x) (hf : r ≠ vF) (f g : Byte → Byte) :
    (s.setReg r b).shiftWithFlag x f g = (s.shiftWithFlag x f g).setReg r b := by
  unfold State.shiftWithFlag
  rw [State.setReg_cfg, State.reg_setReg_ne _ _ hx]
  cases s.cfg.shiftFlagOrder with
  | flagLast => exact State.resultThenFlag_setReg hx hf _ _
  | flagFirst => exact State.flagThenResult_setReg hx hf f g

theorem map_reg_setReg {rs : List Reg} (h : r ∉ rs) : rs.map (s.setReg r b).reg = rs.map s.reg :=
  List.map_congr_left fun _ hq => State.reg_setReg_ne _ _ fun e => h (e ▸ hq)

/-! ## The instructions -/

/-- The two answers are next states that differ by V[r] <- b alone. -/
def AnswersUpTo (r : Reg) (b : Byte) (a a' : Answer) : Prop := ∃ t, a = .next t ∧ a' = .next (t.setReg r b)

theorem complete_answersUpTo {u u' : State} (h : u' = u.setReg r b) : AnswersUpTo r b (complete u) (complete u') := by
  rw [h]
  exact ⟨_, rfl, rfl⟩

/-- An instruction whose one effect is V[x] <- result has no other influence on V[r]. -/
theorem setReg_answersUpTo {x : Reg} (hx : r ≠ x) {result result' : Byte} (h : result' = result) :
    AnswersUpTo r b (complete (s.setReg x result)) (complete ((s.setReg r b).setReg x result')) :=
  complete_answersUpTo (h ▸ State.setReg_setReg_comm _ hx _ _)

theorem resultThenFlag_answersUpTo {x : Reg} (hx : r ≠ x) (hf : r ≠ vF) {result result' flag flag' : Byte}
    (h : result' = result) (k : flag' = flag) :
    AnswersUpTo r b (complete (s.resultThenFlag x result flag))
      (complete ((s.setReg r b).resultThenFlag x result' flag')) := by
  subst h k
  exact complete_answersUpTo (State.resultThenFlag_setReg hx hf _ _)

theorem skipIf_answersUpTo {cond cond' : Bool} (h : cond' = cond) :
    AnswersUpTo r b (complete (s.skipIf cond)) (complete ((s.setReg r b).skipIf cond')) :=
  complete_answersUpTo (by rw [h]; rfl)

theorem setI_answersUpTo {w w' : Word} (h : w' = w) :
    AnswersUpTo r b (complete (s.setI w)) (complete ((s.setReg r b).setI w')) :=
  complete_answersUpTo (by rw [h]; rfl)

theorem push_jump_answersUpTo (w target : Word) :
    AnswersUpTo r b (s.push w fun u => complete (u.jumpTo target))
      ((s.setReg r b).push w fun u => complete (u.jumpTo target)) := by
  unfold State.push
  by_cases h : s.sp.val < stackDepth
  · rw [dif_pos h, dif_pos (show (s.setReg r b).sp.val < stackDepth from h)]
    exact complete_answersUpTo rfl
  · rw [dif_neg h, dif_neg (show ¬ (s.setReg r b).sp.val < stackDepth from h)]
    exact ⟨_, rfl, rfl⟩

theorem pop_jump_answersUpTo :
    AnswersUpTo r b (s.pop fun target u => complete (u.jumpTo target))
      ((s.setReg r b).pop fun target u => complete (u.jumpTo target)) := by
  unfold State.pop
  by_cases h : s.sp.val = 0
  · rw [if_pos h, if_pos (show (s.setReg r b).sp.val = 0 from h)]
    exact ⟨_, rfl, rfl⟩
  · rw [if_neg h, if_neg (show ¬ (s.setReg r b).sp.val = 0 from h)]
    exact complete_answersUpTo rfl

theorem execBNNN_answersUpTo (nnn : BitVec 12) (h : (s.setReg r b).reg v0 = s.reg v0) :
    AnswersUpTo r b (execBNNN nnn s) (execBNNN nnn (s.setReg r b)) := by
  have ht : indexedTarget (s.setReg r b) nnn = indexedTarget s nnn := by rw [indexedTarget, h, indexedTarget]
  unfold execBNNN
  rw [State.setReg_cfg, ht]
  cases s.cfg.bnnnMode with
  | index => exact setI_answersUpTo rfl
  | jump => exact complete_answersUpTo rfl

theorem execFX0A_answersUpTo {x : Reg} (hx : r ≠ x) :
    AnswersUpTo r b (execFX0A x s) (execFX0A x (s.setReg r b)) := by
  unfold execFX0A
  rw [show (s.setReg r b).lowestKey = s.lowestKey from rfl]
  cases s.lowestKey with
  | none => exact ⟨_, rfl, rfl⟩
  | some k => exact setReg_answersUpTo hx rfl

theorem execDXYN_answersUpTo {x y : Reg} (n : BitVec 4) (hx : (s.setReg r b).reg x = s.reg x)
    (hy : (s.setReg r b).reg y = s.reg y) (hf : r ≠ vF) :
    AnswersUpTo r b (execDXYN x y n s) (execDXYN x y n (s.setReg r b)) := by
  unfold execDXYN
  rw [hx, hy, drawSprite_setReg]
  exact complete_answersUpTo (State.setReg_setReg_comm _ hf _ _)

/-- A register outside the readers' and writers' columns of R22 has no influence on the instruction. -/
theorem exec_answersUpTo {i : Instr} (hr : r ∉ readRegs i) (hw : r ∉ (written s i).regs) :
    AnswersUpTo r b (exec i s) (exec i (s.setReg r b)) := by
  have read : ∀ q ∈ readRegs i, (s.setReg r b).reg q = s.reg q :=
    fun q hq => s.reg_setReg_ne b fun e => hr (e ▸ hq)
  have keep : ∀ q ∈ (written s i).regs, r ≠ q := fun q hq e => hw (e ▸ hq)
  cases i with
  | op00E0 => exact complete_answersUpTo rfl
  | op00EE => exact pop_jump_answersUpTo
  | op1NNN nnn => exact complete_answersUpTo rfl
  | op2NNN nnn => exact push_jump_answersUpTo _ _
  | op3XNN x nn | op4XNN x nn => exact skipIf_answersUpTo (by rw [read x (.head _)])
  | op5XY0 x y | op9XY0 x y =>
    exact skipIf_answersUpTo (by rw [read x (.head _), read y (.tail _ (.head _))])
  | op6XNN x nn => exact setReg_answersUpTo (keep x (.head _)) rfl
  | op7XNN x nn => exact setReg_answersUpTo (keep x (.head _)) (by rw [read x (.head _)])
  | op8XY0 x y => exact setReg_answersUpTo (keep x (.head _)) (read y (.head _))
  | op8XY1 x y | op8XY2 x y | op8XY3 x y =>
    exact setReg_answersUpTo (keep x (.head _)) (by rw [read x (.head _), read y (.tail _ (.head _))])
  | op8XY4 x y | op8XY5 x y | op8XY7 x y =>
    refine resultThenFlag_answersUpTo (keep x (.head _)) (keep vF (.tail _ (.head _))) ?_ ?_ <;>
      rw [read x (.head _), read y (.tail _ (.head _))]
  | op8XY6 x | op8XYE x =>
    exact complete_answersUpTo (State.shiftWithFlag_setReg (keep x (.head _)) (keep vF (.tail _ (.head _))) _ _)
  | opANNN nnn => exact setI_answersUpTo rfl
  | opBNNN nnn => exact execBNNN_answersUpTo nnn (read v0 (.head _))
  | opCXNN x nn => exact setReg_answersUpTo (s := s.countDraw) (keep x (.head _)) rfl
  | opDXYN x y n =>
    exact execDXYN_answersUpTo n (read x (.head _)) (read y (.tail _ (.head _))) (keep vF (.head _))
  | opEX9E x | opEXA1 x =>
    exact complete_answersUpTo (by rw [read x (.head _), State.keyPressed_setReg]; rfl)
  | opFX07 x => exact setReg_answersUpTo (keep x (.head _)) rfl
  | opFX0A x => exact execFX0A_answersUpTo (keep x (.head _))
  | opFX15 x | opFX18 x => exact complete_answersUpTo (by rw [read x (.head _)]; rfl)
  | opFX1E x => exact setI_answersUpTo (by rw [State.setReg_i, read x (.head _)])
  | opFX29 x => exact setI_answersUpTo (by rw [read x (.head _)])
  | opFX33 x => exact complete_answersUpTo (by rw [read x (.head _), storeBytes_setReg])
  | opFX55 x => exact complete_answersUpTo (by rw [map_reg_setReg (rs := regsUpTo x) hr, storeBytes_setReg])
  | opFX65 x => exact complete_answersUpTo (loadRegs_setReg hw)

end

/-- Settles O54, from the commuting of each instruction with the write to the register. -/
theorem unreadRegisterHasNoInfluence : Obligations.UnreadRegisterHasNoInfluence :=
  fun _ _ _ _ hr hw => exec_answersUpTo hr hw

end Sys2Proof.Machine
end

section
/-! PROOF. An engine that is not RUNNING: the CPU executes nothing, and no step halts it (R34, R223, R238). -/

namespace Sys2Proof.Machine

theorem runAfterShutdown_ne_running (r : RunState) : runAfterShutdown r ≠ .running := by
  cases r <;> simp [runAfterShutdown]

theorem isHalted_runAfterShutdown (r : RunState) : (runAfterShutdown r).isHalted = r.isHalted := by
  cases r <;> rfl

/-! ## Frames of the ticks and of the host's steps -/

theorem State.delayTick_frame (s : State) : Frame { delay := true } s s.delayTick :=
  { Frame.refl { delay := true } s with dt := nofun }

theorem State.soundTick_frame (s : State) : Frame { sound := true, ports := true } s s.soundTick :=
  { Frame.refl { sound := true, ports := true } s with st := nofun, tone := nofun, outputs := nofun }

theorem State.setKey_frame (s : State) (k : Fin 16) (pressed : Bool) : Frame { key := true } s (s.setKey k pressed) :=
  { Frame.refl { key := true } s with key := nofun }

theorem State.requestShutdown_frame (s : State) : Frame { run := true } s s.requestShutdown :=
  { Frame.refl { run := true } s with run := nofun }

/-! ## A stopped engine -/

/-- What may change while the engine is stopped and its VM kept: what the ticks, the key sampler and a shutdown request
write. -/
def whileStopped : MayChange := { delay := true, sound := true, key := true, run := true, ports := true }

/-- All that an agent's step can do to a stopped engine that keeps its VM: an unchanged PC, a run state that only a
shutdown request moves, and the frame of the ticks and of the key sampler. -/
theorem agentStep_of_stopped {s : State} {a : AgentStep} (hr : s.run ≠ .running) (ha : a.keepsVm = true) :
    ∃ t, agentStep s a = .next t ∧ (t.run = s.run ∨ t.run = runAfterShutdown s.run) ∧ t.pc = s.pc ∧
      Frame whileStopped s t := by
  cases a with
  | cpu => exact ⟨s, cpuStep_of_stopped hr, .inl rfl, rfl, Frame.refl _ _⟩
  | delayTick => exact ⟨_, rfl, .inl rfl, rfl, s.delayTick_frame.widen (by simp [MayChange.Within, whileStopped])⟩
  | soundTick => exact ⟨_, rfl, .inl rfl, rfl, s.soundTick_frame.widen (by simp [MayChange.Within, whileStopped])⟩
  | host act =>
    cases act with
    | setKey k pressed =>
      exact ⟨_, rfl, .inl rfl, rfl, (s.setKey_frame k pressed).widen (by simp [MayChange.Within, whileStopped])⟩
    | shutdown =>
      exact ⟨_, rfl, .inr rfl, rfl, s.requestShutdown_frame.widen (by simp [MayChange.Within, whileStopped])⟩
    | load rom => cases ha
    | teardown => cases ha

theorem run_ne_running_of_stopped {r r' : RunState} (hr : r ≠ .running) (h : r' = r ∨ r' = runAfterShutdown r) :
    r' ≠ .running := by
  rcases h with rfl | rfl
  · exact hr
  · exact runAfterShutdown_ne_running r

theorem isHalted_of_stopped {r r' : RunState} (h : r' = r ∨ r' = runAfterShutdown r) : r'.isHalted = r.isHalted := by
  rcases h with rfl | rfl
  · rfl
  · exact isHalted_runAfterShutdown r

/-- Settles O14, by induction over the agents' steps. -/
theorem stoppedEngineExecutesNothing : Obligations.StoppedEngineExecutesNothing := by
  unfold Obligations.StoppedEngineExecutesNothing
  intro as
  induction as with
  | nil => exact fun s _ hr _ => ⟨s, rfl, hr, rfl, Frame.refl _ _⟩
  | cons a as ih =>
    intro s hl hr hk
    obtain ⟨u, hu, hrun, hpc, hf⟩ := agentStep_of_stopped hr (hk a List.mem_cons_self)
    obtain ⟨t, ht, htr, htpc, htf⟩ := ih u (hf.live.trans hl) (run_ne_running_of_stopped hr hrun)
      fun b hb => hk b (List.mem_cons_of_mem a hb)
    refine ⟨t, ?_, htr, htpc.trans hpc, hf.trans htf⟩
    rw [runAgents, State.blockStep_of_live hl, hu]
    exact ht

/-- The next agent keeps the VM when every scheduled step does; where none is scheduled, the CPU is next. -/
theorem State.nextAgent_keepsVm {s : State} (h : ∀ a ∈ s.schedule, a.keepsVm = true) : s.nextAgent.keepsVm = true := by
  unfold State.nextAgent
  cases hq : s.schedule with
  | nil => rfl
  | cons a q => exact h a (by simp [hq])

theorem safeRun_of_stopped (n : Nat) {s : State} (hl : s.live = true) (hr : s.run ≠ .running)
    (hh : s.run.isHalted = false) (hk : ∀ a ∈ s.schedule, a.keepsVm = true) : safeRun n s = true := by
  induction n generalizing s with
  | zero => simp [safeRun, hh]
  | succ n ih =>
    obtain ⟨t, ht, hrun, -, hf⟩ := agentStep_of_stopped (s := { s with schedule := s.schedule.tail }) hr
      (State.nextAgent_keepsVm hk)
    have hsched : t.schedule = s.schedule.tail := hf.schedule
    have := ih (hf.live.trans hl) (run_ne_running_of_stopped hr hrun) ((isHalted_of_stopped hrun).trans hh)
      fun a ha => hk a (List.mem_of_mem_tail (hsched ▸ ha))
    simp [safeRun, hh, step_of_live hl, ht, this]

/-- Settles O15: neither IDLE nor SHUTDOWN is RUNNING or HALTED. -/
theorem stoppedEngineIsSafe : Obligations.StoppedEngineIsSafe := by
  unfold Obligations.StoppedEngineIsSafe
  intro n s hl hr hk
  rcases hr with hr | hr <;> exact safeRun_of_stopped n hl (by simp [hr]) (by simp [hr, RunState.isHalted]) hk

end Sys2Proof.Machine
end

section
/-! PROOF. The reset state (R39, R261). -/

namespace Sys2Proof.Machine

/-- A block that nothing was written to reads as the reset contents (R56). -/
theorem initial_byteAt (c : Config) (a : Nat) : (State.initial c).byteAt a = memBackground c a := rfl

theorem memBackground_font (c : Config) {d : Nat} (h : d < 80) : memBackground c (0x50 + d) = c.font.getD d 0 := by
  rw [memBackground, if_pos (by simp only [fontBase, fontSize]; omega), Nat.add_sub_cancel_left]

theorem memBackground_memInit (c : Config) {a : Nat} (h : a < 0x50 ∨ 0xA0 ≤ a) :
    memBackground c a = (cellAt a c.memInit).getD 0 := by
  rw [memBackground, if_neg (by simp only [fontBase, fontSize]; omega)]

theorem initial_reg (c : Config) (r : Reg) : (State.initial c).reg r = 0 := Vector.getElem_replicate _

theorem initial_stackAt (c : Config) (k : Nat) : (State.initial c).stackAt k = 0 := by
  simp only [State.stackAt, State.initial, Vector.getElem?_replicate]
  split <;> rfl

theorem initial_keyDown (c : Config) (k : Nat) : (State.initial c).keyDown k = false := by
  simp only [State.keyDown, State.initial, Vector.getElem?_replicate]
  split <;> rfl

/-- Settles O1, field by field. -/
theorem resetStateTable : Obligations.ResetStateTable :=
  ⟨rfl, fun c => ⟨initial_reg c, rfl, rfl, rfl, rfl, rfl, rfl, initial_stackAt c, initial_keyDown c,
    pixelOf_clear _ _, rfl, rfl, rfl, rfl, rfl, rfl,
    fun _ hd => (initial_byteAt c _).trans (memBackground_font c hd),
    fun a ha => (initial_byteAt c a).trans (memBackground_memInit c ha)⟩⟩

end Sys2Proof.Machine
end

section
/-! PROOF. Memory: what one write changes (R53), that the canonical form is unique (R50), and which steps change a byte
(R51). -/

namespace Sys2Proof.Machine

/-! ## One write (R53) -/

theorem State.putByte_frame (s : State) (a : Nat) (v : Byte) : Frame { mem := [a] } s (s.putByte a v) :=
  { Frame.refl { mem := [a] } s with mem := fun _ hb => State.byteAt_putByte_ne fun e => hb (by simp [e]) }

theorem State.diag_diagLog_append (s : State) (code : DiagCode) (info : Nat) :
    (s.diag code info).diagLog = s.diagLog ++ s.diagOf code info := by
  by_cases hd : s.cfg.diagEnabled <;> simp [State.diagOf, hd]

theorem State.diag_outputs_append (s : State) (code : DiagCode) (info : Nat) :
    (s.diag code info).outputs = s.outputs ++ diagEvents (s.diagOf code info) := by
  by_cases hd : s.cfg.diagEnabled <;> simp [State.diagOf, diagEvents, hd]

/-- Settles O17: in range the write is the cell's own update, out of range it is the diagnostic alone. -/
theorem memWriteChangesOneCell : Obligations.MemWriteChangesOneCell := by
  unfold Obligations.MemWriteChangesOneCell
  intro s a v hwf
  refine ⟨State.memWrite_keeps_wf a v hwf, s.memWrite_pc a v, s.memWrite_pcUpdated a v, ?_⟩
  rcases s.memWrite_cases a v with ⟨hlt, e⟩ | ⟨hge, e⟩ <;> rw [e]
  · exact ⟨fun _ => ⟨State.byteAt_putByte_self hwf, s.putByte_frame a v⟩, fun hge => absurd hlt hge.not_gt⟩
  · exact ⟨fun hlt => absurd hlt hge.not_gt,
      fun _ => ⟨s.diag_diagLog_append _ a, s.diag_outputs_append _ a, s.diag_frame _ a⟩⟩

/-! ## The canonical form is unique (R50) -/

/-- Where the addresses rise, a look-up finds exactly the cells listed. -/
theorem cellAt_eq_some_iff {a : Nat} {v : Byte} {m : List Host.Cell} (hs : m.Pairwise fun x y => x.1 < y.1) :
    cellAt a m = some v ↔ (a, v) ∈ m := by
  induction m with
  | nil => simp [cellAt]
  | cons c rest ih =>
    obtain ⟨b, u⟩ := c
    obtain ⟨hlow, hrest⟩ := List.pairwise_cons.mp hs
    by_cases hba : b = a
    · subst hba
      have hnot : (b, v) ∉ rest := fun h => lt_irrefl b (hlow _ h)
      simp [cellAt, hnot, eq_comm]
    · simp [cellAt, hba, Ne.symm hba, ih hrest]

/-- The cells of a canonical memory are the bytes in range that differ from the reset contents. -/
theorem State.mem_cells_iff {s : State} {a : Nat} {v : Byte} (h : Memory.wf s.cfg s.mem) :
    (a, v) ∈ s.mem ↔ a < memSize ∧ v ≠ memBackground s.cfg a ∧ s.byteAt a = v := by
  obtain ⟨hs, hcells⟩ := h
  rw [State.byteAt_def]
  constructor
  · intro hmem
    obtain ⟨ha, hv⟩ := hcells _ hmem
    exact ⟨ha, hv, by rw [(cellAt_eq_some_iff hs).mpr hmem, Option.getD_some]⟩
  · rintro ⟨-, hv, hread⟩
    rw [← cellAt_eq_some_iff hs]
    cases hc : cellAt a s.mem with
    | none => exact absurd (by rw [← hread, hc, Option.getD_none]) hv
    | some u => rw [← hread, hc, Option.getD_some]

/-- Two lists of rising addresses with the same cells are the same list. -/
theorem cells_eq_of_mem_iff {m n : List Host.Cell} (hm : m.Pairwise fun x y => x.1 < y.1)
    (hn : n.Pairwise fun x y => x.1 < y.1) (h : ∀ c, c ∈ m ↔ c ∈ n) : m = n := by
  have nodup {l : List Host.Cell} (hl : l.Pairwise fun x y => x.1 < y.1) : l.Nodup :=
    hl.imp fun hlt e => hlt.ne (congrArg Prod.fst e)
  have hperm : m.Perm n := (List.perm_ext_iff_of_nodup (nodup hm) (nodup hn)).mpr h
  exact hperm.eq_of_pairwise (fun _ _ _ _ hab hba => absurd hab hba.asymm) hm hn

/-- Settles O18: both lists hold the cells that the bytes determine, and a list of rising addresses is determined by its
cells. -/
theorem canonicalMemoryIsUnique : Obligations.CanonicalMemoryIsUnique := by
  unfold Obligations.CanonicalMemoryIsUnique
  intro s t hcfg hs ht hread
  refine cells_eq_of_mem_iff ht.1 hs.1 fun c => ?_
  rw [State.mem_cells_iff ht, State.mem_cells_iff hs, hcfg]
  exact and_congr_right fun ha => by rw [hread _ ha]

/-! ## What changes memory (R51) -/

/-- FX33 and FX55 alone list addresses of memory among what they write. -/
theorem written_mem_eq_nil_or_store (s : State) (i : Instr) :
    (written s i).mem = [] ∨ ∃ x, i = .opFX33 x ∨ i = .opFX55 x := by
  cases i with
  | opFX33 x => exact .inr ⟨x, .inl rfl⟩
  | opFX55 x => exact .inr ⟨x, .inr rfl⟩
  | _ => exact .inl rfl

theorem exec_store_of_byteAt_ne {i : Instr} {s t : State} {a : Nat} (e : exec i s = .next t)
    (h : t.byteAt a ≠ s.byteAt a) : ∃ x, i = .opFX33 x ∨ i = .opFX55 x := by
  rcases written_mem_eq_nil_or_store s i with hw | hx
  · exact absurd ((exec_frame e).mem a (by simp [hw])) h
  · exact hx

theorem cpuStep_store_of_byteAt_ne {s t : State} {a : Nat} (e : cpuStep s = .next t) (h : t.byteAt a ≠ s.byteAt a) :
    s.run = .running ∧ ∃ x, decode s.cfg.strictDecode s.fetchWord = .instr (.opFX33 x) ∨
      decode s.cfg.strictDecode s.fetchWord = .instr (.opFX55 x) := by
  rcases cpuStep_cases e with ⟨-, rfl⟩ | ⟨hr, rfl | rfl | ⟨i, hd, he⟩ | rfl⟩
  · exact absurd rfl h
  · exact absurd rfl h
  · exact absurd rfl h
  · obtain ⟨x, rfl | rfl⟩ := exec_store_of_byteAt_ne he h
    · exact ⟨hr, x, .inl hd⟩
    · exact ⟨hr, x, .inr hd⟩
  · exact absurd rfl h

/-- In any agent's step a byte changes by a load, or by a store of the running CPU. -/
theorem agentStep_of_byteAt_ne {s t : State} {b : AgentStep} {a : Nat} (e : agentStep s b = .next t)
    (h : t.byteAt a ≠ s.byteAt a) :
    (∃ rom, b = .host (.load rom)) ∨
    (b = .cpu ∧ s.run = .running ∧ ∃ x, decode s.cfg.strictDecode s.fetchWord = .instr (.opFX33 x) ∨
      decode s.cfg.strictDecode s.fetchWord = .instr (.opFX55 x)) := by
  cases b with
  | cpu => exact .inr ⟨rfl, cpuStep_store_of_byteAt_ne e h⟩
  | delayTick | soundTick =>
    cases e
    exact absurd rfl h
  | host act =>
    cases e
    cases act with
    | load rom => exact .inl ⟨rom, rfl⟩
    | setKey _ _ | shutdown | teardown => exact absurd rfl h

/-- Settles O55 over the step of whichever agent the schedule names. -/
theorem onlyStoresAndResetChangeMemory : Obligations.OnlyStoresAndResetChangeMemory :=
  fun s _ _ e h => agentStep_of_byteAt_ne (s := { s with schedule := s.schedule.tail }) (agentStep_of_step e) h

end Sys2Proof.Machine
end

section
/-! PROOF. The encoder and the decoder: the fields of a laid-out word (R71, R73), the round trip (R80), and the nibbles that
no rule reads (R77). -/

namespace Sys2Proof

/-! ## The fields of a laid-out word (R71, R73) -/

@[simp] theorem regOfNibble_nibbleOfReg (r : Reg) : regOfNibble (nibbleOfReg r) = r :=
  Fin.ext (Nat.mod_eq_of_lt r.isLt)

section
variable (op : BitVec 4) (x y : Reg) (n : BitVec 4) (nn : Byte) (nnn : BitVec 12)

@[simp] theorem opNibble_layoutNNN : opNibble (layoutNNN op nnn) = op.toNat := by
  refine congrArg BitVec.toNat ?_
  ext k hk
  interval_cases k <;> simp [layoutNNN, placeNibble]

@[simp] theorem fieldNNN_layoutNNN : fieldNNN (layoutNNN op nnn) = nnn := by
  ext k hk
  interval_cases k <;> simp [fieldNNN, layoutNNN, placeNibble]

@[simp] theorem opNibble_layoutXNN : opNibble (layoutXNN op x nn) = op.toNat := by
  refine congrArg BitVec.toNat ?_
  ext k hk
  interval_cases k <;> simp [layoutXNN, placeNibble]

@[simp] theorem fieldX_layoutXNN : fieldX (layoutXNN op x nn) = x := by
  refine (congrArg regOfNibble ?_).trans (regOfNibble_nibbleOfReg x)
  ext k hk
  interval_cases k <;> simp [layoutXNN, placeNibble]

@[simp] theorem fieldNN_layoutXNN : fieldNN (layoutXNN op x nn) = nn := by
  ext k hk
  interval_cases k <;> simp [fieldNN, layoutXNN, placeNibble]

@[simp] theorem opNibble_layoutXYN : opNibble (layoutXYN op x y n) = op.toNat := by
  refine congrArg BitVec.toNat ?_
  ext k hk
  interval_cases k <;> simp [layoutXYN, placeNibble]

@[simp] theorem fieldX_layoutXYN : fieldX (layoutXYN op x y n) = x := by
  refine (congrArg regOfNibble ?_).trans (regOfNibble_nibbleOfReg x)
  ext k hk
  interval_cases k <;> simp [layoutXYN, placeNibble]

@[simp] theorem fieldY_layoutXYN : fieldY (layoutXYN op x y n) = y := by
  refine (congrArg regOfNibble ?_).trans (regOfNibble_nibbleOfReg y)
  ext k hk
  interval_cases k <;> simp [layoutXYN, placeNibble]

@[simp] theorem fieldN_layoutXYN : fieldN (layoutXYN op x y n) = n := by
  ext k hk
  interval_cases k <;> simp [fieldN, layoutXYN, placeNibble]

end

/-- The two bytes of a word, the high one first, are the word again (R58). -/
theorem wordOfBytes_highByte_lowByte (w : Word) : wordOfBytes (highByte w) (lowByte w) = w := by
  ext k hk
  interval_cases k <;> simp [wordOfBytes, highByte, lowByte]

/-! ## The round trip (R80) -/

/-- The canonical word has every ignored nibble 0, so both decoder modes read it back. -/
theorem decode_encode (strict : Bool) (i : Instr) : decode strict (encode i) = .instr i := by
  cases i with
  | op00E0 | op00EE => cases strict <;> rfl
  | op1NNN nnn | op2NNN nnn | opANNN nnn | opBNNN nnn => simp [encode, decode]
  | op3XNN x nn | op4XNN x nn | op6XNN x nn | op7XNN x nn | opCXNN x nn => simp [encode, decode]
  | opDXYN x y n => simp [encode, decode]
  | op5XY0 x y | op9XY0 x y => simp [encode, decode, decodeIfN0]
  | op8XY0 x y | op8XY1 x y | op8XY2 x y | op8XY3 x y | op8XY4 x y | op8XY5 x y | op8XY7 x y =>
    simp [encode, decode, decode8]
  | op8XY6 x | op8XYE x => simp [encode, decode, decode8]
  | opEX9E x | opEXA1 x => simp [encode, decode, decodeE]
  | opFX07 x | opFX0A x | opFX15 x | opFX18 x | opFX1E x | opFX29 x | opFX33 x | opFX55 x | opFX65 x =>
    simp [encode, decode, decodeF]

theorem decodeBytes_encodeBytes (strict : Bool) (i : Instr) :
    decodeBytes strict (encodeBytes i) = decode strict (encode i) := by
  rw [encodeBytes, decodeBytes, wordOfBytes_highByte_lowByte]

/-- Settles O4: the fields of the encoded word are the operands, and its bytes are the word. -/
theorem decodeOfEncode : Obligations.DecodeOfEncode :=
  fun strict i => ⟨decode_encode strict i, (decodeBytes_encodeBytes strict i).trans (decode_encode strict i)⟩

/-! ## Ignored nibbles (R77) -/

/-- Settles O8: the decoder reads neither Y of the two shifts nor, by default, the other ignored nibbles. -/
theorem ignoredNibblesDoNotMatter : Obligations.IgnoredNibblesDoNotMatter := by
  unfold Obligations.IgnoredNibblesDoNotMatter
  intro strict x y n
  refine ⟨?_, ?_, ?_, ?_, ?_, ?_⟩
  · simp [decode, decode8]
  · simp [decode, decode8]
  · simp [decode, decode0]
  · simp [decode, decode0]
  · simp [decode, decodeIfN0]
  · simp [decode, decodeIfN0]

end Sys2Proof
end

section
/-! PROOF. The decode tree family by family: what STRICT_DECODE changes (R75), and the UNKNOWN words (R76). -/

namespace Sys2Proof

/-! ## STRICT_DECODE (R75) -/

theorem toNat_ne_zero_iff {m : Nat} (b : BitVec m) : b.toNat ≠ 0 ↔ b ≠ 0 := BitVec.toNat_ne_iff_ne (y := 0)

theorem decode0_true (w : Word) :
    decode0 true w = if w.extractLsb' 8 4 ≠ 0 then .reject (.unknownOpcode w) else decode0 false w := by
  simp only [decode0, toNat_ne_zero_iff, Bool.true_and, Bool.false_and, decide_eq_true_eq, Bool.false_eq_true, if_false]

theorem decodeIfN0_false (w : Word) (i : Instr) : decodeIfN0 false w i = .instr i := rfl

theorem decodeIfN0_true (w : Word) (i : Instr) :
    decodeIfN0 true w i = if fieldN w ≠ 0 then .reject (.unknownOpcode w) else .instr i := by
  simp only [decodeIfN0, toNat_ne_zero_iff, Bool.true_and, decide_eq_true_eq]

/-- Outside the families 0x0, 0x5 and 0x9 the decoder does not look at its mode. -/
theorem decode_true_eq_decode_false {w : Word} (h0 : opNibble w ≠ 0) (h5 : opNibble w ≠ 5) (h9 : opNibble w ≠ 9) :
    decode true w = decode false w := by
  unfold decode
  split
  case h_1 h => exact absurd h h0
  case h_6 h => exact absurd h h5
  case h_10 h => exact absurd h h9
  all_goals rfl

/-- Settles O7, family by family. -/
theorem strictDecodeRejectsMore : Obligations.StrictDecodeRejectsMore := by
  unfold Obligations.StrictDecodeRejectsMore
  intro w
  by_cases h0 : opNibble w = 0
  · simp [decode, h0, decode0_true]
  by_cases h5 : opNibble w = 5
  · simp [decode, h5, decodeIfN0_true, decodeIfN0_false]
  by_cases h9 : opNibble w = 9
  · simp [decode, h9, decodeIfN0_true, decodeIfN0_false]
  simp [h0, h5, h9, decode_true_eq_decode_false]

/-! ## UNKNOWN words (R76) -/

theorem decode0_false_eq_reject_iff (w : Word) :
    decode0 false w = .reject (.unknownOpcode w) ↔ fieldNN w ≠ 0xE0 ∧ fieldNN w ≠ 0xEE := by
  simp only [ne_eq, BitVec.toNat_eq, decode0, Bool.false_and, Bool.false_eq_true, if_false]
  split
  case h_3 hE0 hEE => simpa using ⟨hE0, hEE⟩
  all_goals next h => simp [h]

theorem decode8_eq_reject_iff (w : Word) :
    decode8 w = .reject (.unknownOpcode w) ↔ 8 ≤ (fieldN w).toNat ∧ fieldN w ≠ 0xE := by
  simp only [ne_eq, BitVec.toNat_eq]
  unfold decode8
  split
  case h_10 => grind
  all_goals next h => simp [h]

theorem decodeE_eq_reject_iff (w : Word) :
    decodeE w = .reject (.unknownOpcode w) ↔ fieldNN w ≠ 0x9E ∧ fieldNN w ≠ 0xA1 := by
  simp only [ne_eq, BitVec.toNat_eq]
  unfold decodeE
  split
  case h_3 h9E hA1 => simpa using ⟨h9E, hA1⟩
  all_goals next h => simp [h]

theorem decodeF_eq_reject_iff (w : Word) :
    decodeF w = .reject (.unknownOpcode w) ↔
      fieldNN w ∉ ([0x07, 0x0A, 0x15, 0x18, 0x1E, 0x29, 0x33, 0x55, 0x65] : List Byte) := by
  simp only [List.mem_cons, List.not_mem_nil, BitVec.toNat_eq]
  unfold decodeF
  split
  case h_10 => simp_all
  all_goals next h => simp [h]

/-- Outside the families 0x0, 0x8, 0xE and 0xF the default decoder rejects no word. -/
theorem decode_false_eq_instr {w : Word} (h0 : opNibble w ≠ 0) (h8 : opNibble w ≠ 8) (hE : opNibble w ≠ 14)
    (hF : opNibble w ≠ 15) : ∃ i, decode false w = .instr i := by
  have hlt : opNibble w < 16 := (w.extractLsb' 12 4).isLt
  unfold decode
  split
  case h_1 h => exact absurd h h0
  case h_9 h => exact absurd h h8
  case h_15 h => exact absurd h hE
  case h_16 h => exact absurd h hF
  case h_17 => grind
  all_goals exact ⟨_, rfl⟩

/-- Settles O6: of the sixteen families, four have words that the default decoder rejects. -/
theorem unknownWordsExactly : Obligations.UnknownWordsExactly := by
  unfold Obligations.UnknownWordsExactly
  intro w
  by_cases h0 : opNibble w = 0
  · simp [decode, h0, decode0_false_eq_reject_iff]
  by_cases h8 : opNibble w = 8
  · simp [decode, h8, decode8_eq_reject_iff]
  by_cases hE : opNibble w = 14
  · simp [decode, hE, decodeE_eq_reject_iff]
  by_cases hF : opNibble w = 15
  · simp [decode, hF, decodeF_eq_reject_iff]
  obtain ⟨i, hi⟩ := decode_false_eq_instr h0 h8 hE hF
  simp [hi, h0, h8, hE, hF]

end Sys2Proof
end

section
/-! PROOF. The decoder and the opcode map (R80): a mask keeps certain fields of a word, so a row asks for the values of
these fields, and so does the decode tree (R74, R75). -/

namespace Sys2Proof

/-! ## The fields as numbers (R71) -/

theorem opNibble_eq (w : Word) : opNibble w = w.toNat / 4096 := by
  have hw := w.isLt
  simp only [opNibble, BitVec.extractLsb'_toNat, Nat.shiftRight_eq_div_pow]
  omega

theorem toNat_nibble2 (w : Word) : (w.extractLsb' 8 4).toNat = w.toNat / 256 % 16 := by
  simp [Nat.shiftRight_eq_div_pow]

theorem toNat_fieldN (w : Word) : (fieldN w).toNat = w.toNat % 16 := by
  simp [fieldN]

theorem toNat_fieldNN (w : Word) : (fieldNN w).toNat = w.toNat % 256 := by
  simp [fieldNN]

/-! ## What a mask keeps of a word -/

theorem placeNibble_zero (bit : Nat) : placeNibble (nibbleOfReg 0) bit = 0#16 := BitVec.zero_shiftLeft bit

theorem and_F000 (w : Word) : w &&& 0xF000#16 = layoutNNN (w.extractLsb' 12 4) 0 := by
  ext k hk
  interval_cases k <;> simp [layoutNNN, placeNibble]

theorem and_F00F (w : Word) : w &&& 0xF00F#16 = layoutXYN (w.extractLsb' 12 4) 0 0 (fieldN w) := by
  simp only [layoutXYN, placeNibble_zero, BitVec.or_zero]
  ext k hk
  interval_cases k <;> simp [placeNibble, fieldN]

theorem and_F0FF (w : Word) : w &&& 0xF0FF#16 = layoutXNN (w.extractLsb' 12 4) 0 (fieldNN w) := by
  simp only [layoutXNN, placeNibble_zero, BitVec.or_zero]
  ext k hk
  interval_cases k <;> simp [placeNibble, fieldNN]

section
variable {w b : Word}

theorem and_F000_eq_iff (hb : b &&& 0xF000#16 = b) : w &&& 0xF000#16 = b ↔ opNibble w = b.toNat / 4096 := by
  rw [← opNibble_eq]
  constructor
  · rintro rfl
    rw [and_F000, opNibble_layoutNNN, opNibble]
  · intro hop
    rw [← hb, and_F000, and_F000, BitVec.toNat_inj.mp hop]

theorem and_F00F_eq_iff (hb : b &&& 0xF00F#16 = b) :
    w &&& 0xF00F#16 = b ↔ opNibble w = b.toNat / 4096 ∧ (fieldN w).toNat = b.toNat % 16 := by
  rw [← opNibble_eq, ← toNat_fieldN]
  constructor
  · rintro rfl
    rw [and_F00F, opNibble_layoutXYN, fieldN_layoutXYN, opNibble]
    exact ⟨rfl, rfl⟩
  · rintro ⟨hop, hn⟩
    rw [← hb, and_F00F, and_F00F, BitVec.toNat_inj.mp hop, BitVec.toNat_inj.mp hn]

theorem and_F0FF_eq_iff (hb : b &&& 0xF0FF#16 = b) :
    w &&& 0xF0FF#16 = b ↔ opNibble w = b.toNat / 4096 ∧ (fieldNN w).toNat = b.toNat % 256 := by
  rw [← opNibble_eq, ← toNat_fieldNN]
  constructor
  · rintro rfl
    rw [and_F0FF, opNibble_layoutXNN, fieldNN_layoutXNN, opNibble]
    exact ⟨rfl, rfl⟩
  · rintro ⟨hop, hnn⟩
    rw [← hb, and_F0FF, and_F0FF, BitVec.toNat_inj.mp hop, BitVec.toNat_inj.mp hnn]

theorem and_FFFF_eq_iff : w &&& 0xFFFF#16 = b ↔ opNibble w = b.toNat / 4096 ∧
    (fieldNN w).toNat = b.toNat % 256 ∧ (w.extractLsb' 8 4).toNat = b.toNat / 256 % 16 := by
  rw [show w &&& 0xFFFF#16 = w from BitVec.and_allOnes, BitVec.toNat_eq, opNibble_eq, toNat_fieldNN, toNat_nibble2]
  omega

end

/-! ## The rows whose mask depends on the mode (D4) -/

/-- The word stands in the row of the instruction (R80). -/
def InRow (strict : Bool) (w : Word) (i : Instr) : Prop := w &&& (rowOf i).maskOf strict = (rowOf i).bits

section
variable {strict : Bool} {w : Word}

theorem inRow_op00E0_iff : InRow strict w .op00E0 ↔ opNibble w = 0 ∧ (fieldNN w).toNat = 0xE0 ∧
    (strict = true → (w.extractLsb' 8 4).toNat = 0) := by
  cases strict
  · simp [InRow, rowOf, OpcodeRow.maskOf, and_F0FF_eq_iff]
  · simp [InRow, rowOf, OpcodeRow.maskOf, and_FFFF_eq_iff]

theorem inRow_op00EE_iff : InRow strict w .op00EE ↔ opNibble w = 0 ∧ (fieldNN w).toNat = 0xEE ∧
    (strict = true → (w.extractLsb' 8 4).toNat = 0) := by
  cases strict
  · simp [InRow, rowOf, OpcodeRow.maskOf, and_F0FF_eq_iff]
  · simp [InRow, rowOf, OpcodeRow.maskOf, and_FFFF_eq_iff]

theorem inRow_op5XY0_iff {x y : Reg} : InRow strict w (.op5XY0 x y) ↔ opNibble w = 5 ∧
    (strict = true → (fieldN w).toNat = 0) := by
  cases strict
  · simp [InRow, rowOf, OpcodeRow.maskOf, and_F000_eq_iff]
  · simp [InRow, rowOf, OpcodeRow.maskOf, and_F00F_eq_iff]

theorem inRow_op9XY0_iff {x y : Reg} : InRow strict w (.op9XY0 x y) ↔ opNibble w = 9 ∧
    (strict = true → (fieldN w).toNat = 0) := by
  cases strict
  · simp [InRow, rowOf, OpcodeRow.maskOf, and_F000_eq_iff]
  · simp [InRow, rowOf, OpcodeRow.maskOf, and_F00F_eq_iff]

end

/-! ## From the decode tree to the rows -/

/-- The decoder's answer agrees with the opcode map: an instruction of the word's row, or UNKNOWN by name. -/
def Decoded.FollowsMap (strict : Bool) (w : Word) : Decoded → Prop
  | .instr i => InRow strict w i
  | .reject e => e = .unknownOpcode w

section
variable (strict : Bool) {w : Word}

theorem decode0_followsMap (h : opNibble w = 0) : (decode0 strict w).FollowsMap strict w := by
  unfold decode0
  split
  · rfl
  · next hs =>
    have hx : strict = true → (w.extractLsb' 8 4).toNat = 0 := fun e => by simpa [e] using hs
    split
    · next hnn => exact inRow_op00E0_iff.mpr ⟨h, hnn, hx⟩
    · next hnn => exact inRow_op00EE_iff.mpr ⟨h, hnn, hx⟩
    · rfl

theorem decodeIfN0_followsMap {i : Instr} (h : (strict = true → (fieldN w).toNat = 0) → InRow strict w i) :
    (decodeIfN0 strict w i).FollowsMap strict w := by
  unfold decodeIfN0
  split
  · rfl
  · next hs => exact h fun e => by simpa [e] using hs

theorem decode8_followsMap (h : opNibble w = 8) : (decode8 w).FollowsMap strict w := by
  unfold decode8
  split
  case h_10 => rfl
  all_goals next hn => simp [Decoded.FollowsMap, InRow, rowOf, OpcodeRow.maskOf, and_F00F_eq_iff, h, hn]

theorem decodeE_followsMap (h : opNibble w = 14) : (decodeE w).FollowsMap strict w := by
  unfold decodeE
  split
  case h_3 => rfl
  all_goals next hnn => simp [Decoded.FollowsMap, InRow, rowOf, OpcodeRow.maskOf, and_F0FF_eq_iff, h, hnn]

theorem decodeF_followsMap (h : opNibble w = 15) : (decodeF w).FollowsMap strict w := by
  unfold decodeF
  split
  case h_10 => rfl
  all_goals next hnn => simp [Decoded.FollowsMap, InRow, rowOf, OpcodeRow.maskOf, and_F0FF_eq_iff, h, hnn]

theorem decode_followsMap (w : Word) : (decode strict w).FollowsMap strict w := by
  unfold decode
  split
  case h_1 h => exact decode0_followsMap strict h
  case h_6 h => exact decodeIfN0_followsMap strict fun hn => inRow_op5XY0_iff.mpr ⟨h, hn⟩
  case h_9 h => exact decode8_followsMap strict h
  case h_10 h => exact decodeIfN0_followsMap strict fun hn => inRow_op9XY0_iff.mpr ⟨h, hn⟩
  case h_15 h => exact decodeE_followsMap strict h
  case h_16 h => exact decodeF_followsMap strict h
  case h_17 => rfl
  all_goals next h => simp [Decoded.FollowsMap, InRow, rowOf, OpcodeRow.maskOf, and_F000_eq_iff, h]

end

/-! ## From the rows to the decode tree -/

/-- A word that stands in some row is not UNKNOWN. -/
theorem decode_of_inRow {strict : Bool} {w : Word} {i : Instr} (h : InRow strict w i) :
    ∃ j, decode strict w = .instr j := by
  cases i with
  | op00E0 =>
    obtain ⟨hop, hnn, hx⟩ := inRow_op00E0_iff.mp h
    exact ⟨.op00E0, by simpa [decode, decode0, hop, hnn] using hx⟩
  | op00EE =>
    obtain ⟨hop, hnn, hx⟩ := inRow_op00EE_iff.mp h
    exact ⟨.op00EE, by simpa [decode, decode0, hop, hnn] using hx⟩
  | op5XY0 x y =>
    obtain ⟨hop, hn⟩ := inRow_op5XY0_iff.mp h
    exact ⟨.op5XY0 (fieldX w) (fieldY w), by simpa [decode, decodeIfN0, hop] using hn⟩
  | op9XY0 x y =>
    obtain ⟨hop, hn⟩ := inRow_op9XY0_iff.mp h
    exact ⟨.op9XY0 (fieldX w) (fieldY w), by simpa [decode, decodeIfN0, hop] using hn⟩
  | op8XY0 | op8XY1 | op8XY2 | op8XY3 | op8XY4 | op8XY5 | op8XY6 | op8XY7 | op8XYE =>
    simp [InRow, rowOf, OpcodeRow.maskOf, and_F00F_eq_iff] at h
    simp [decode, decode8, h]
  | opEX9E | opEXA1 =>
    simp [InRow, rowOf, OpcodeRow.maskOf, and_F0FF_eq_iff] at h
    simp [decode, decodeE, h]
  | opFX07 | opFX0A | opFX15 | opFX18 | opFX1E | opFX29 | opFX33 | opFX55 | opFX65 =>
    simp [InRow, rowOf, OpcodeRow.maskOf, and_F0FF_eq_iff] at h
    simp [decode, decodeF, h]
  | _ =>
    simp [InRow, rowOf, OpcodeRow.maskOf, and_F000_eq_iff] at h
    simp [decode, h]

/-- Settles O5: the decode tree answers within the map, and no word of a row is UNKNOWN. -/
theorem decoderFollowsOpcodeMap : Obligations.DecoderFollowsOpcodeMap := by
  unfold Obligations.DecoderFollowsOpcodeMap
  intro strict w
  have hmap := decode_followsMap strict w
  refine ⟨fun i hi => ?_, fun e he => ⟨?_, fun i hrow => ?_⟩⟩
  · rw [hi] at hmap
    exact hmap
  · rw [he] at hmap
    exact hmap
  · obtain ⟨j, hj⟩ := decode_of_inRow hrow
    cases he.symm.trans hj

end Sys2Proof
end

section
/-! PROOF. The CPU's step of an UNKNOWN word (R76). -/

namespace Sys2Proof.Machine

/-- Where the fetch passes its checks, the step of a running engine decodes and executes the word at PC (R90, R93). -/
theorem cpuStep_of_fetch {s : State} (hr : s.run = .running) (hrom : s.pc.toNat + 2 ≤ s.romEnd)
    (hmem : s.pc.toNat + 1 ≤ 0xFFF) : cpuStep s = decodeAndExecute s.fetchWord s := by
  rw [cpuStep_of_running hr, cycle, if_neg (by omega), if_neg (by omega)]

theorem decodeAndExecute_of_reject {s : State} {w : Word} {e : DecodeError}
    (hd : decode s.cfg.strictDecode w = .reject e) :
    decodeAndExecute w s = execUnknown w { s with pcUpdated := false } := by
  rw [decodeAndExecute, hd]

/-- The UNKNOWN word's diagnostic and the common advance change the log, the ports and PC alone (R76, R96). -/
theorem execUnknown_answer {s : State} (w : Word) (h : s.pcUpdated = false) :
    ∃ t, execUnknown w s = .next t ∧ t.pc = s.pc + 2 ∧ t.pcUpdated = false ∧
      t.diagLog = s.diagLog ++ s.diagOf .unknownOpcode w.toNat ∧
      t.outputs = s.outputs ++ diagEvents (s.diagOf .unknownOpcode w.toNat) ∧
      Frame { log := true, ports := true } s t :=
  ⟨_, rfl, State.commonAdvance_pc_of_not_updated (s := s.diag _ _) h, h, s.diag_diagLog_append _ _,
    s.diag_outputs_append _ _, (s.diag_frame _ _).advance⟩

/-- Settles O11: the step is the UNKNOWN word's execution with PC_UPDATED cleared. -/
theorem stepPassesUnknownWord : Obligations.StepPassesUnknownWord := by
  unfold Obligations.StepPassesUnknownWord
  intro s e hl ha hr hrom hmem hd
  have hstep : step s =
      execUnknown s.fetchWord { s with schedule := s.schedule.tail, pcUpdated := false } := by
    rw [step_of_live hl, ha]
    exact (cpuStep_of_fetch (s := { s with schedule := s.schedule.tail }) hr hrom hmem).trans
      (decodeAndExecute_of_reject hd)
  obtain ⟨t, ht, hpc, hupd, hlog, hout, hf⟩ :=
    execUnknown_answer (s := { s with schedule := s.schedule.tail, pcUpdated := false }) s.fetchWord rfl
  exact ⟨t, hstep.trans ht, hpc, hupd, hlog, hout, { hf with }⟩

end Sys2Proof.Machine
end

section
/-! PROOF. The CPU's step: the fetched word and its instruction (R90, R93 to R95), the idle check (R91), the fetch bounds
check (R92), and the word placed for the next step (R90, log 10). -/

namespace Sys2Proof.Machine

/-! ## The step of a running engine -/

/-- In a live block whose CPU is next, the step is the CPU's, its place in the schedule used up (R240). -/
theorem step_of_cpu {s : State} (hl : s.live = true) (ha : s.nextAgent = .cpu) :
    step s = cpuStep { s with schedule := s.schedule.tail } := by
  rw [step_of_live hl, ha]
  rfl

theorem cpuStep_of_past_rom {s : State} (hr : s.run = .running) (h : s.romEnd < s.pc.toNat + 2) :
    cpuStep s = .next { s with run := .idle } := by
  rw [cpuStep_of_running hr, cycle, if_pos h]

theorem cpuStep_of_fetch_out_of_range {s : State} (hr : s.run = .running) (hrom : s.pc.toNat + 2 ≤ s.romEnd)
    (hmem : 0xFFF < s.pc.toNat + 1) : cpuStep s = .next (s.raiseFatal .fetchOob none) := by
  rw [cpuStep_of_running hr, cycle, if_neg (by omega), if_pos hmem]

theorem decodeAndExecute_of_instr {s : State} {w : Word} {i : Instr} (hd : decode s.cfg.strictDecode w = .instr i) :
    decodeAndExecute w s = exec i { s with pcUpdated := false } := by
  rw [decodeAndExecute, hd]

/-! ## The fetched word (R58, R93) -/

/-- The high byte shifted past the low one leaves the sum of the two (R58). -/
theorem toNat_wordOfBytes (hi lo : Byte) : (wordOfBytes hi lo).toNat = 256 * hi.toNat + lo.toNat := by
  have hhi : hi.toNat * 256 % 65536 = 2 ^ 8 * hi.toNat := by omega
  have hlo : lo.toNat % 65536 = lo.toNat := by omega
  have hor : 2 ^ 8 * hi.toNat + lo.toNat = 2 ^ 8 * hi.toNat ||| lo.toNat := Nat.two_pow_add_eq_or_of_lt lo.isLt _
  simpa [wordOfBytes, Nat.shiftLeft_eq, hhi, hlo] using hor.symm

/-- Settles O10: the word is the big-endian pair at PC, and the cycle passes both checks. -/
theorem stepRunsDecodedInstruction : Obligations.StepRunsDecodedInstruction := by
  unfold Obligations.StepRunsDecodedInstruction
  intro s i hl ha hr hrom hmem hd
  have hcpu := cpuStep_of_fetch (s := { s with schedule := s.schedule.tail }) hr hrom hmem
  exact ⟨toNat_wordOfBytes _ _, (step_of_cpu hl ha).trans (hcpu.trans (decodeAndExecute_of_instr hd))⟩

/-- Settles O12: the idle check comes before the fetch. -/
theorem engineIdlesPastRom : Obligations.EngineIdlesPastRom :=
  fun s hl ha hr h => (step_of_cpu hl ha).trans
    (cpuStep_of_past_rom (s := { s with schedule := s.schedule.tail }) hr h)

/-! ## Which steps halt by the fetch (R92, R221) -/

theorem State.raiseFatal_frame (s : State) (code : FatalCode) (word : Option Word) :
    Frame { run := true, ports := true } s (s.raiseFatal code word) :=
  { Frame.refl { run := true, ports := true } s with run := nofun, outputs := nofun }

/-- All that an instruction can do to RUN: nothing, or CALL on a full stack and RETURN on an empty one halt (R221). -/
theorem exec_run_cases {i : Instr} {s t : State} (e : exec i s = .next t) :
    t.run = s.run ∨
    (s.sp.val = stackDepth ∧ (∃ nnn, i = .op2NNN nnn) ∧ t = s.raiseFatalAtInstr .stackOverflow) ∨
    (s.sp.val = 0 ∧ i = .op00EE ∧ t = s.raiseFatalAtInstr .stackUnderflow) := by
  cases i with
  | op2NNN nnn =>
    rcases s.push_cases s.returnAddr fun u => complete (u.jumpTo (zextAddr nnn)) with ⟨_, he⟩ | ⟨hsp, he⟩ <;>
      cases he.symm.trans e
    · exact .inl rfl
    · exact .inr (.inl ⟨hsp, ⟨nnn, rfl⟩, rfl⟩)
  | op00EE =>
    rcases s.pop_cases fun target u => complete (u.jumpTo target) with ⟨_, he⟩ | ⟨hsp, he⟩ <;> cases he.symm.trans e
    · exact .inl rfl
    · exact .inr (.inr ⟨hsp, rfl, rfl⟩)
  | _ => exact .inl ((exec_frame e).run rfl)

theorem exec_run_ne_fetchOob {i : Instr} {s t : State} (e : exec i s = .next t) (hs : s.run ≠ .halted .fetchOob) :
    t.run ≠ .halted .fetchOob := by
  rcases exec_run_cases e with h | ⟨-, -, rfl⟩ | ⟨-, -, rfl⟩
  · exact h ▸ hs
  · simp
  · simp

/-- A CPU step that raises FETCH_OOB has passed the idle check and failed the bounds check (R91, R92). -/
theorem cpuStep_fetch_out_of_range {s t : State} (e : cpuStep s = .next t) (hs : s.run ≠ .halted .fetchOob)
    (ht : t.run = .halted .fetchOob) : s.pc.toNat + 2 ≤ s.romEnd ∧ 0xFFF < s.pc.toNat + 1 := by
  by_cases hr : s.run = .running
  · rw [cpuStep_of_running hr] at e
    rcases cycle_cases s with ⟨-, h⟩ | ⟨hrom, hmem, -⟩ | ⟨-, -, ⟨i, -, h⟩ | ⟨_, -, h⟩⟩
    · cases h.symm.trans e
      cases ht
    · exact ⟨hrom, hmem⟩
    · exact absurd ht (exec_run_ne_fetchOob (h.symm.trans e) hs)
    · cases h.symm.trans e
      exact absurd ht hs
  · cases (cpuStep_of_stopped hr).symm.trans e
    exact absurd ht hs

theorem runAfterShutdown_eq_halted {r : RunState} {code : FatalCode} (h : runAfterShutdown r = .halted code) :
    r = .halted code := by
  cases r with
  | halted c => exact h
  | running | idle | shutdown => cases h

/-- No step of the host halts the engine (R238, R261). -/
theorem State.hostStep_run_eq_halted {s : State} {act : HostStep} {code : FatalCode}
    (h : (s.hostStep act).run = .halted code) : s.run = .halted code := by
  cases act with
  | setKey _ _ | teardown => exact h
  | shutdown => exact runAfterShutdown_eq_halted h
  | load rom =>
    change (s.load rom).run = _ at h
    rcases s.load_cases rom with ⟨bytes, -, -, e⟩ | ⟨_, -, e⟩ <;> rw [e] at h
    · rw [State.resetWith_eq] at h
      cases h
    · exact h

/-- Of all agents' steps only the CPU's fetch outside memory raises FETCH_OOB (R92). -/
theorem agentStep_fetch_out_of_range {s t : State} {a : AgentStep} (e : agentStep s a = .next t)
    (hs : s.run ≠ .halted .fetchOob) (ht : t.run = .halted .fetchOob) :
    s.pc.toNat + 2 ≤ s.romEnd ∧ 0xFFF < s.pc.toNat + 1 := by
  cases a with
  | cpu => exact cpuStep_fetch_out_of_range e hs ht
  | delayTick | soundTick =>
    cases e
    exact absurd ht hs
  | host act =>
    cases e
    exact absurd (State.hostStep_run_eq_halted ht) hs

/-- Settles O13: with ROM_END <= 0x1000 a fetch that passes the idle check lies inside memory. -/
theorem fetchOutOfRangeIsFatal : Obligations.FetchOutOfRangeIsFatal := by
  unfold Obligations.FetchOutOfRangeIsFatal
  refine ⟨fun s hl ha hr hrom hmem => ?_, fun s t hrom hs e ht => ?_⟩
  · have hcpu := cpuStep_of_fetch_out_of_range (s := { s with schedule := s.schedule.tail }) hr hrom hmem
    exact ⟨_, (step_of_cpu hl ha).trans hcpu, rfl, rfl, rfl, rfl, State.raiseFatal_frame _ _ _⟩
  · have hfetch : s.pc.toNat + 2 ≤ s.romEnd ∧ 0xFFF < s.pc.toNat + 1 :=
      agentStep_fetch_out_of_range (s := { s with schedule := s.schedule.tail }) (agentStep_of_step e) hs ht
    omega

/-! ## Bytes stored one after another -/

theorem putBytes_byteAt_of_lt (bs : List Byte) {a b : Nat} (h : b < a) (s : State) :
    (putBytes a bs s).byteAt b = s.byteAt b := by
  induction bs generalizing a s with
  | nil => rfl
  | cons v bs ih => rw [putBytes, ih (by omega), State.byteAt_putByte_ne (by omega)]

/-- Each stored byte is read back at its own address. -/
theorem putBytes_byteAt (bs : List Byte) {a : Nat} {s : State} (ha : a + bs.length ≤ memSize)
    (hw : Memory.wf s.cfg s.mem) (k : Nat) (hk : k < bs.length) : (putBytes a bs s).byteAt (a + k) = bs[k] := by
  induction bs generalizing a s k with
  | nil => exact absurd hk (Nat.not_lt_zero k)
  | cons v bs ih =>
    rw [List.length_cons] at ha hk
    rw [putBytes]
    cases k with
    | zero => exact (putBytes_byteAt_of_lt bs (Nat.lt_succ_self a) _).trans (State.byteAt_putByte_self hw)
    | succ k =>
      exact (congrArg _ (Nat.add_right_comm a k 1)).trans
        (ih (by omega) (State.putByte_keeps_wf (by omega) hw) k (by omega))

/-! ## The placed word (log 10) -/

/-- The state with a word placed, but for its memory, which holds the word's bytes. -/
theorem State.placeWord_eq (s : State) (w : Word) :
    s.placeWord w =
      { s with
        pc := s.fetchHome
        romEnd := max s.romEnd (s.fetchHome.toNat + 2)
        run := .running
        live := true
        schedule := []
        mem := (s.placeWord w).mem } :=
  putBytes_eq _ _ _

theorem State.placeWord_pc (s : State) (w : Word) : (s.placeWord w).pc = s.fetchHome := by rw [State.placeWord_eq]

theorem State.placeWord_fetchWord {s : State} (w : Word) (h : Memory.wf s.cfg s.mem) :
    (s.placeWord w).fetchWord = w := by
  have hread : ∀ k (hk : k < 2), (s.placeWord w).byteAt (s.fetchHome.toNat + k) = [highByte w, lowByte w][k] :=
    putBytes_byteAt [highByte w, lowByte w] s.fetchHome_fits h
  have hhigh : (s.placeWord w).byteAt s.fetchHome.toNat = highByte w := hread 0 (by decide)
  have hlow : (s.placeWord w).byteAt (s.fetchHome.toNat + 1) = lowByte w := hread 1 (by decide)
  rw [State.fetchWord, State.placeWord_pc, hhigh, hlow, wordOfBytes_highByte_lowByte]

/-- From where a word was placed, the next step executes it. -/
theorem step_placeWord {s : State} {w : Word} {i : Instr} (h : Memory.wf s.cfg s.mem)
    (hd : decode s.cfg.strictDecode w = .instr i) :
    step (s.placeWord w) = exec i { s.placeWord w with pcUpdated := false } := by
  have hfetch := State.placeWord_fetchWord w h
  have hfits : s.fetchHome.toNat + 2 ≤ 4096 := s.fetchHome_fits
  rw [State.placeWord_eq] at hfetch ⊢
  exact (stepRunsDecodedInstruction _ i rfl rfl rfl (le_max_right _ _) (show s.fetchHome.toNat + 1 ≤ 0xFFF by omega)
    (hfetch.symm ▸ hd)).2

theorem tableWord_sixteen (w : Nat) : tableWord 16 w = BitVec.ofNat 16 w :=
  BitVec.eq_of_toNat_eq (by simp [tableWord])

/-- Settles O16: the host's table word is the word itself, and the placed word is executed. -/
theorem placedWordRunsNext : Obligations.PlacedWordRunsNext := by
  unfold Obligations.PlacedWordRunsNext
  intro s w i h hd
  rw [State.withFetchWord, tableWord_sixteen]
  exact step_placeWord h hd

end Sys2Proof.Machine
end

section
/-! PROOF. Control flow: JUMP, CALL, RETURN and the register skips (R110 to R116), and the words of the spec's
examples. -/

namespace Sys2Proof.Machine

/-! ## The jump -/

theorem zextAddr_toNat (a : BitVec 12) : (zextAddr a).toNat = a.toNat :=
  BitVec.toNat_setWidth_of_le (by decide)

/-- A jump at the end of an instruction changes nothing beyond what the instruction already did (R35, R96). -/
theorem Frame.jump {c : MayChange} {s t : State} (h : Frame c s t) (target : Word) :
    Frame c s (t.jumpTo target).commonAdvance :=
  (h.trans ((t.jumpTo_frame target).widen (by simp [MayChange.Within]))).advance

/-- Settles O19: the common advance leaves a PC that was set as it is. -/
theorem jumpSetsPc : Obligations.JumpSetsPc :=
  fun s nnn => ⟨_, rfl, zextAddr_toNat nnn, rfl, (Frame.refl {} s).jump _⟩

/-! ## The call stack (R27) -/

/-- The state with `w` pushed, where there is room. -/
def State.pushed (s : State) (w : Word) (h : s.sp.val < stackDepth) : State :=
  { s with stack := s.stack.set s.sp.val w, sp := ⟨s.sp.val + 1, Nat.succ_lt_succ h⟩ }

/-- The state with the top entry no longer counted. -/
def State.popped (s : State) : State :=
  { s with sp := ⟨s.sp.val - 1, Nat.lt_of_le_of_lt (Nat.sub_le _ _) s.sp.isLt⟩ }

theorem State.push_of_room {s : State} (h : s.sp.val < stackDepth) (w : Word) (k : State → Answer) :
    s.push w k = k (s.pushed w h) :=
  dif_pos h

theorem State.push_of_full {s : State} (h : s.sp.val = stackDepth) (w : Word) (k : State → Answer) :
    s.push w k = .next (s.raiseFatalAtInstr .stackOverflow) :=
  dif_neg h.not_lt

theorem State.pop_of_pos {s : State} (h : 0 < s.sp.val) (k : Word → State → Answer) :
    s.pop k = k (s.stackAt (s.sp.val - 1)) s.popped :=
  if_neg h.ne'

theorem State.pop_of_empty {s : State} (h : s.sp.val = 0) (k : Word → State → Answer) :
    s.pop k = .next (s.raiseFatalAtInstr .stackUnderflow) :=
  if_pos h

theorem State.pushed_frame (s : State) (w : Word) (h : s.sp.val < stackDepth) :
    Frame { stack := true } s (s.pushed w h) :=
  s.setStack_frame _ _

theorem State.popped_frame (s : State) : Frame { stack := true } s s.popped :=
  s.setStack_frame s.stack _

/-- A push writes the entry at the old SP and no other. -/
theorem State.stackAt_pushed (s : State) (w : Word) (h : s.sp.val < stackDepth) (k : Nat) :
    (s.pushed w h).stackAt k = if s.sp.val = k then w else s.stackAt k := by
  rw [State.stackAt, State.pushed, Vector.getElem?_set]
  split <;> rfl

theorem State.stackAt_congr {s t : State} (h : t.stack = s.stack) (k : Nat) : t.stackAt k = s.stackAt k := by
  rw [State.stackAt, h, State.stackAt]

/-! ## CALL and RETURN -/

theorem exec_op2NNN_of_room {s : State} (nnn : BitVec 12) (h : s.sp.val < stackDepth) :
    exec (.op2NNN nnn) s = .next ((s.pushed s.returnAddr h).jumpTo (zextAddr nnn)).commonAdvance := by
  rw [exec, exec2NNN, State.push_of_room h, complete_eq]

theorem exec_op2NNN_of_full {s : State} (nnn : BitVec 12) (h : s.sp.val = stackDepth) :
    exec (.op2NNN nnn) s = .next (s.raiseFatalAtInstr .stackOverflow) := by
  rw [exec, exec2NNN, State.push_of_full h]

theorem exec_op00EE_of_pos {s : State} (h : 0 < s.sp.val) :
    exec .op00EE s = .next (s.popped.jumpTo (s.stackAt (s.sp.val - 1))).commonAdvance := by
  rw [exec, exec00EE, State.pop_of_pos h, complete_eq]

theorem exec_op00EE_of_empty {s : State} (h : s.sp.val = 0) :
    exec .op00EE s = .next (s.raiseFatalAtInstr .stackUnderflow) := by
  rw [exec, exec00EE, State.pop_of_empty h]

/-- Settles O20: the push has room or is Fatal(STACK_OVERFLOW). -/
theorem callPushesReturnAddress : Obligations.CallPushesReturnAddress := by
  unfold Obligations.CallPushesReturnAddress
  refine fun s nnn => ⟨fun hroom => ?_, fun hfull => ?_⟩
  · have hentry := s.stackAt_pushed s.returnAddr hroom
    exact ⟨_, exec_op2NNN_of_room nnn hroom, zextAddr_toNat nnn, rfl, (hentry _).trans (if_pos rfl), rfl,
      fun k hk => (hentry k).trans (if_neg hk.symm), (s.pushed_frame _ hroom).jump _⟩
  · exact ⟨_, exec_op2NNN_of_full nnn hfull, rfl, rfl, rfl, rfl, s.raiseFatalAtInstr_frame _⟩

/-- Settles O21: the pop finds an entry or is Fatal(STACK_UNDERFLOW). -/
theorem returnPopsIntoPc : Obligations.ReturnPopsIntoPc := by
  unfold Obligations.ReturnPopsIntoPc
  refine fun s => ⟨fun hpos => ?_, fun hempty => ?_⟩
  · exact ⟨_, exec_op00EE_of_pos hpos, rfl, rfl, rfl, fun _ => rfl, s.popped_frame.jump _⟩
  · exact ⟨_, exec_op00EE_of_empty hempty, rfl, rfl, rfl, rfl, s.raiseFatalAtInstr_frame _⟩

/-- Settles O22: RETURN pops the entry that CALL pushed, from any state with CALL's stack. -/
theorem returnUndoesCall : Obligations.ReturnUndoesCall := by
  unfold Obligations.ReturnUndoesCall
  intro s t u nnn hroom hcall husp hustack
  obtain ⟨t', hcall', -, -, hpushed, hsp, hbelow, -⟩ := (callPushesReturnAddress s nnn).1 hroom
  cases hcall'.symm.trans hcall
  have hdepth : u.sp.val = s.sp.val + 1 := husp ▸ hsp
  obtain ⟨r, hreturn, hrsp, hrpc, -, hkept, -⟩ := (returnPopsIntoPc u).1 (by omega)
  have hentry (k : Nat) : u.stackAt k = t.stackAt k := State.stackAt_congr hustack k
  rw [hdepth, Nat.add_sub_cancel] at hrsp hrpc
  exact ⟨r, hreturn, hrpc.trans ((hentry _).trans hpushed), Fin.ext hrsp,
    fun k hk => (hkept k).trans ((hentry k).trans (hbelow k hk.ne))⟩

/-! ## The register skips -/

/-- An instruction that only skips ends at PC + 4 or PC + 2 as its condition says, all else unchanged (R96, R97). -/
theorem complete_skipIf_answer {s : State} (p : Prop) [Decidable p] (h : s.pcUpdated = false) :
    ∃ t, complete (s.skipIf (decide p)) = .next t ∧ t.pc = (if p then s.pc + 4 else s.pc + 2) ∧ Frame {} s t := by
  have hpc := State.skipIf_commonAdvance_pc (decide p) h
  simp only [decide_eq_true_eq] at hpc
  exact ⟨_, rfl, hpc, (s.skipIf_frame _).advance⟩

/-- Settles O23: all four are the one skip, each on its own condition. -/
theorem registerSkips : Obligations.RegisterSkips :=
  fun s x y nn h =>
    ⟨complete_skipIf_answer (s.reg x = nn) h, complete_skipIf_answer (s.reg x ≠ nn) h,
      complete_skipIf_answer (s.reg x = s.reg y) h, complete_skipIf_answer (s.reg x ≠ s.reg y) h⟩

/-! ## The words of the examples -/

/-- Settles O9: eight words are laid out from their operands (0x822E with Y = 2, which R77 ignores), so the decoder
reads them back; the other two stand in R76's list of the UNKNOWN words. -/
theorem exampleWordsDecode : Obligations.ExampleWordsDecode :=
  ⟨decode_encode false (.op2NNN 0x210), decode_encode false (.op3XNN 0 0x05), decode_encode false (.op8XY6 1),
    (ignoredNibblesDoNotMatter false 2 2 0).2.1, decode_encode false (.opFX29 0), decode_encode false (.opDXYN 0 1 1),
    decode_encode false (.opEX9E 5), decode_encode false .op00EE,
    (unknownWordsExactly 0x801F).mpr (.inr (.inl (by decide))), (unknownWordsExactly 0x0123).mpr (.inl (by decide))⟩

end Sys2Proof.Machine
end

section
/-! PROOF. Register loads, arithmetic, logic and the random byte (R130 to R143). -/

namespace Sys2Proof.Machine

/-! ## One result in VX -/

/-- An instruction that only writes VX leaves the written byte there and PC + 2, all else unchanged (R96). -/
theorem complete_setReg_answer {s : State} (x : Reg) (b : Byte) (h : s.pcUpdated = false) :
    ∃ t, complete (s.setReg x b) = .next t ∧ t.reg x = b ∧ t.pc = s.pc + 2 ∧ Frame { regs := [x] } s t :=
  ⟨_, rfl, s.reg_setReg_self x b, State.commonAdvance_pc_of_not_updated h, (s.setReg_frame x b).advance⟩

/-- The same, for a byte known by its bits. -/
theorem complete_setReg_answer_bits {s : State} {x : Reg} {b : Byte} {bit : Nat → Bool}
    (hb : ∀ k, b.getLsbD k = bit k) (h : s.pcUpdated = false) :
    ∃ t, complete (s.setReg x b) = .next t ∧ (∀ k, (t.reg x).getLsbD k = bit k) ∧ t.pc = s.pc + 2 ∧
      Frame { regs := [x] } s t := by
  obtain ⟨t, e, hreg, rest⟩ := complete_setReg_answer x b h
  exact ⟨t, e, hreg ▸ hb, rest⟩

/-- Settles O24: both write VX once, NN or VY. -/
theorem loadsSetTheRegister : Obligations.LoadsSetTheRegister :=
  fun s x y nn h => ⟨complete_setReg_answer x nn h, complete_setReg_answer x (s.reg y) h⟩

/-- Settles O25: the sum of two bytes is the exact sum mod 256. -/
theorem addImmediateWraps : Obligations.AddImmediateWraps := by
  unfold Obligations.AddImmediateWraps
  intro s x nn h
  obtain ⟨t, e, hreg, rest⟩ := complete_setReg_answer x (s.reg x + nn) h
  exact ⟨t, e, hreg ▸ BitVec.toNat_add _ _, rest⟩

/-- Settles O26: each of the three operations on bytes acts on each bit alone. -/
theorem logicIsBitwise : Obligations.LogicIsBitwise :=
  fun _ _ _ h =>
    ⟨complete_setReg_answer_bits (fun _ => BitVec.getLsbD_or) h,
      complete_setReg_answer_bits (fun _ => BitVec.getLsbD_and) h,
      complete_setReg_answer_bits (fun _ => BitVec.getLsbD_xor) h⟩

/-- Settles O30: a bit of the drawn byte stays only where NN has it. -/
theorem randomIsMasked : Obligations.RandomIsMasked := by
  unfold Obligations.RandomIsMasked
  intro s x nn h
  have hreg := s.countDraw.reg_setReg_self x (Config.freeRand s.draws &&& nn)
  have hmask (k : Nat) (hk : nn.getLsbD k = false) : (Config.freeRand s.draws &&& nn).getLsbD k = false := by
    rw [BitVec.getLsbD_and, hk, Bool.and_false]
  exact ⟨_, rfl, hreg, rfl, fun k hk => (congrArg (BitVec.getLsbD · k) hreg).trans (hmask k hk),
    State.commonAdvance_pc_of_not_updated h, exec_frame (i := .opCXNN x nn) rfl⟩

/-! ## A result in VX, then a flag in VF (R130, R131) -/

theorem State.resultThenFlag_reg_vF (s : State) (x : Reg) (result flag : Byte) :
    (s.resultThenFlag x result flag).reg vF = flag :=
  (s.setReg x result).reg_setReg_self vF flag

theorem State.resultThenFlag_reg_of_ne (s : State) {x : Reg} (hx : x ≠ vF) (result flag : Byte) :
    (s.resultThenFlag x result flag).reg x = result :=
  ((s.setReg x result).reg_setReg_ne flag hx.symm).trans (s.reg_setReg_self x result)

/-- An instruction with a result and a flag leaves the flag in VF, the result in any other VX, and PC + 2 (R96, R130). -/
theorem complete_resultThenFlag_answer {s : State} (x : Reg) (result flag : Byte) (h : s.pcUpdated = false) :
    ∃ t, complete (s.resultThenFlag x result flag) = .next t ∧ (x ≠ vF → t.reg x = result) ∧ t.reg vF = flag ∧
      t.pc = s.pc + 2 ∧ Frame { regs := [x, vF] } s t :=
  ⟨_, rfl, fun hx => s.resultThenFlag_reg_of_ne hx result flag, s.resultThenFlag_reg_vF x result flag,
    State.commonAdvance_pc_of_not_updated h, (s.resultThenFlag_frame x result flag).advance⟩

theorem flagByte_decide (p : Prop) [Decidable p] : flagByte (decide p) = if p then 1 else 0 := by
  simp only [flagByte, decide_eq_true_eq]

/-- Settles O27: the carry is that of the exact sum. -/
theorem addSetsCarry : Obligations.AddSetsCarry := by
  unfold Obligations.AddSetsCarry
  intro s x y h
  obtain ⟨t, e, hreg, hflag, rest⟩ := complete_resultThenFlag_answer x (s.reg x + s.reg y)
    (flagByte (carryOut (s.reg x) (s.reg y))) h
  exact ⟨t, e, fun hx => hreg hx ▸ BitVec.toNat_add _ _, hflag.trans (flagByte_decide _), rest⟩

/-- A difference of bytes is the exact difference mod 256. -/
theorem toNat_sub_byte (a b : Byte) : ((a - b).toNat : Int) = (a.toNat - b.toNat : Int) % 256 := by
  rw [BitVec.toNat_sub]
  omega

/-- Either subtraction: the difference mod 256 and NOT borrow, whichever operand is the minuend (R139, R141). -/
theorem complete_subtract_answer {s : State} (x : Reg) (a b : Byte) (h : s.pcUpdated = false) :
    ∃ t, complete (s.resultThenFlag x (a - b) (flagByte (notBorrow a b))) = .next t ∧
      (x ≠ vF → ((t.reg x).toNat : Int) = (a.toNat - b.toNat : Int) % 256) ∧
      t.reg vF = (if b.toNat ≤ a.toNat then 1 else 0) ∧ t.pc = s.pc + 2 ∧ Frame { regs := [x, vF] } s t := by
  obtain ⟨t, e, hreg, hflag, rest⟩ := complete_resultThenFlag_answer x (a - b) (flagByte (notBorrow a b)) h
  exact ⟨t, e, fun hx => hreg hx ▸ toNat_sub_byte a b, hflag.trans (flagByte_decide _), rest⟩

/-- Settles O28: 8XY5 and 8XY7 are the one subtraction with its operands exchanged. -/
theorem subtractSetsNotBorrow : Obligations.SubtractSetsNotBorrow :=
  fun s x y h =>
    ⟨complete_subtract_answer x (s.reg x) (s.reg y) h, complete_subtract_answer x (s.reg y) (s.reg x) h⟩

/-! ## The shifts in both flag orders (R130, R140, R142; D5) -/

section
variable {s : State} {x : Reg} (f g : Byte → Byte)

theorem State.shiftWithFlag_of_flagLast (h : s.cfg.shiftFlagOrder = .flagLast) :
    s.shiftWithFlag x f g = s.resultThenFlag x (f (s.reg x)) (g (s.reg x)) := by
  rw [State.shiftWithFlag, h]

theorem State.shiftWithFlag_of_flagFirst (h : s.cfg.shiftFlagOrder = .flagFirst) :
    s.shiftWithFlag x f g = s.flagThenResult x f g := by
  rw [State.shiftWithFlag, h]

/-- Where VX is not VF, the flag written first does not reach the result, and the order of the writes is no matter. -/
theorem State.flagThenResult_of_ne (hx : x ≠ vF) :
    s.flagThenResult x f g = s.resultThenFlag x (f (s.reg x)) (g (s.reg x)) := by
  rw [State.flagThenResult, State.reg_setReg_ne _ _ hx.symm, State.resultThenFlag, State.setReg_setReg_comm _ hx]

/-- Where VX is VF, the flag written first is what is shifted (R130). -/
theorem State.flagThenResult_vF_reg_vF : (s.flagThenResult vF f g).reg vF = f (g (s.reg vF)) := by
  rw [State.flagThenResult, State.reg_setReg_self, State.reg_setReg_self]

theorem State.shiftWithFlag_of_ne (hx : x ≠ vF) :
    s.shiftWithFlag x f g = s.resultThenFlag x (f (s.reg x)) (g (s.reg x)) := by
  cases h : s.cfg.shiftFlagOrder with
  | flagLast => exact State.shiftWithFlag_of_flagLast f g h
  | flagFirst => exact (State.shiftWithFlag_of_flagFirst f g h).trans (State.flagThenResult_of_ne f g hx)

/-- A shift leaves result and flag where X is not F; with X = F the flag stands under FLAG_LAST, and the shift of the flag
under FLAG_FIRST (R130). -/
theorem complete_shiftWithFlag_answer (h : s.pcUpdated = false) :
    ∃ t, complete (s.shiftWithFlag x f g) = .next t ∧ t.pc = s.pc + 2 ∧ Frame { regs := [x, vF] } s t ∧
      (x ≠ vF → t.reg x = f (s.reg x) ∧ t.reg vF = g (s.reg x)) ∧
      (x = vF → s.cfg.shiftFlagOrder = .flagLast → t.reg vF = g (s.reg x)) ∧
      (x = vF → s.cfg.shiftFlagOrder = .flagFirst → t.reg vF = f (g (s.reg x))) := by
  have hpc := State.commonAdvance_pc_of_not_updated ((s.shiftWithFlag_pcUpdated x f g).trans h)
  rw [s.shiftWithFlag_pc] at hpc
  refine ⟨_, rfl, hpc, (s.shiftWithFlag_frame x f g).advance, fun hx => ?_, fun _ hlast => ?_, ?_⟩
  · rw [State.shiftWithFlag_of_ne f g hx]
    exact ⟨s.resultThenFlag_reg_of_ne hx _ _, s.resultThenFlag_reg_vF x _ _⟩
  · rw [State.shiftWithFlag_of_flagLast f g hlast]
    exact s.resultThenFlag_reg_vF x _ _
  · rintro rfl hfirst
    rw [State.shiftWithFlag_of_flagFirst f g hfirst]
    exact State.flagThenResult_vF_reg_vF f g

end

section
variable (a : Byte)

theorem toNat_shiftRight_one : (a >>> 1).toNat = a.toNat / 2 := by
  rw [BitVec.toNat_ushiftRight, Nat.shiftRight_one]

theorem toNat_shiftLeft_one : (a <<< 1).toNat = 2 * a.toNat % 256 := by
  rw [BitVec.toNat_shiftLeft, Nat.shiftLeft_eq, Nat.mul_comm, pow_one]

theorem toNat_shrOut : (shrOut a).toNat = a.toNat % 2 := by
  rw [shrOut, BitVec.toNat_and]
  exact Nat.and_one_is_mod _

theorem toNat_shlOut : (shlOut a).toNat = a.toNat / 128 := by
  have hbit : a.toNat / 128 < 2 := by omega
  calc (shlOut a).toNat = (a >>> 7).toNat % 2 := toNat_shrOut (a >>> 7)
    _ = a.toNat / 128 % 2 := by rw [BitVec.toNat_ushiftRight, Nat.shiftRight_eq_div_pow]
    _ = a.toNat / 128 := Nat.mod_eq_of_lt hbit

/-- A flag shifted right is 0. -/
theorem shrOut_shiftRight_one : shrOut a >>> 1 = 0 := by
  apply BitVec.eq_of_toNat_eq
  rw [toNat_shiftRight_one, toNat_shrOut]
  exact Nat.div_eq_of_lt (Nat.mod_lt _ Nat.two_pos)

/-- A flag shifted left fits a byte. -/
theorem toNat_shlOut_shiftLeft_one : (shlOut a <<< 1).toNat = 2 * (a.toNat / 128) := by
  rw [toNat_shiftLeft_one, toNat_shlOut]
  omega

end

/-- Settles O29: both are the one shift with a flag, in exact numbers. -/
theorem shiftsInBothFlagOrders : Obligations.ShiftsInBothFlagOrders := by
  unfold Obligations.ShiftsInBothFlagOrders
  intro s x h
  constructor
  · obtain ⟨t, e, hpc, hframe, hne, hlast, hfirst⟩ := complete_shiftWithFlag_answer (x := x) (· >>> 1) shrOut h
    exact ⟨t, e, hpc, hframe, fun hx => ⟨(hne hx).1 ▸ toNat_shiftRight_one _, (hne hx).2 ▸ toNat_shrOut _⟩,
      fun hx ho => hlast hx ho ▸ toNat_shrOut _, fun hx ho => (hfirst hx ho).trans (shrOut_shiftRight_one _)⟩
  · obtain ⟨t, e, hpc, hframe, hne, hlast, hfirst⟩ := complete_shiftWithFlag_answer (x := x) (· <<< 1) shlOut h
    exact ⟨t, e, hpc, hframe, fun hx => ⟨(hne hx).1 ▸ toNat_shiftLeft_one _, (hne hx).2 ▸ toNat_shlOut _⟩,
      fun hx ho => hlast hx ho ▸ toNat_shlOut _, fun hx ho => hfirst hx ho ▸ toNat_shlOut_shiftLeft_one _⟩

end Sys2Proof.Machine
end

section
/-! PROOF. The index register and the memory instructions (R160 to R168). -/

namespace Sys2Proof.Machine

/-! ## The words written to I and PC -/

theorem zextByte_toNat (b : Byte) : (zextByte b).toNat = b.toNat :=
  BitVec.toNat_setWidth_of_le (by decide)

/-- The glyph's address is the exact sum, which ends below the font's end (R165). -/
theorem glyphAddr_toNat (b : Byte) : (glyphAddr b).toNat = 0x50 + 5 * (b.toNat % 16) := by
  have hnibble : (b &&& 0x0F).toNat = b.toNat % 16 := by
    rw [BitVec.toNat_and]
    exact Nat.and_two_pow_sub_one_eq_mod b.toNat 4
  rw [glyphAddr, hnibble, BitVec.toNat_ofNat, fontBase, fontGlyphBytes]
  omega

/-- V0 + NNN is at most 0x10FE, so no bit of the sum is lost (R161). -/
theorem indexedTarget_toNat (s : State) (nnn : BitVec 12) :
    (indexedTarget s nnn).toNat = (s.reg v0).toNat + nnn.toNat := by
  rw [indexedTarget, BitVec.toNat_add, zextByte_toNat, zextAddr_toNat]
  omega

/-! ## I alone -/

/-- An instruction that only writes I leaves the written word there and PC + 2, all else unchanged (R96). -/
theorem complete_setI_answer {s : State} {w : Word} {n : Nat} (hw : w.toNat = n) (h : s.pcUpdated = false) :
    ∃ t, complete (s.setI w) = .next t ∧ t.i.toNat = n ∧ t.pc = s.pc + 2 ∧ Frame { i := true } s t :=
  ⟨_, rfl, hw, State.commonAdvance_pc_of_not_updated h, (s.setI_frame w).advance⟩

/-- Settles O31: both only write I, the address field or the glyph's address. -/
theorem loadIndexAndGlyph : Obligations.LoadIndexAndGlyph :=
  fun s x nnn h =>
    ⟨complete_setI_answer (zextAddr_toNat nnn) h, complete_setI_answer (glyphAddr_toNat (s.reg x)) h⟩

/-- Settles O33: the sum of two words is the exact sum mod 65536. -/
theorem addToIndexWraps : Obligations.AddToIndexWraps := by
  unfold Obligations.AddToIndexWraps
  intro s x h
  refine complete_setI_answer ?_ h
  rw [BitVec.toNat_add, zextByte_toNat]

/-! ## I or PC, by BNNN_MODE -/

theorem exec_opBNNN_of_index {s : State} (nnn : BitVec 12) (h : s.cfg.bnnnMode = .index) :
    exec (.opBNNN nnn) s = complete (s.setI (indexedTarget s nnn)) := by
  rw [exec, execBNNN, h]

theorem exec_opBNNN_of_jump {s : State} (nnn : BitVec 12) (h : s.cfg.bnnnMode = .jump) :
    exec (.opBNNN nnn) s = complete (s.jumpTo (indexedTarget s nnn)) := by
  rw [exec, execBNNN, h]

/-- Settles O32: the one exact target goes to I or to PC. -/
theorem indexedByV0InBothModes : Obligations.IndexedByV0InBothModes := by
  unfold Obligations.IndexedByV0InBothModes
  refine fun s nnn h => ⟨fun hindex => ?_, fun hjump => ?_⟩
  · exact ⟨_, exec_opBNNN_of_index nnn hindex, indexedTarget_toNat s nnn, State.commonAdvance_pc_of_not_updated h, h,
      (s.setI_frame _).advance⟩
  · exact ⟨_, exec_opBNNN_of_jump nnn hjump, indexedTarget_toNat s nnn, rfl, (Frame.refl {} s).jump _⟩

/-! ## Stores from I on -/

/-- An instruction that only stores `n` bytes from I on leaves each byte in range at its address, a diagnostic for each
address that is not, and PC + 2, all else unchanged (R53, R96, R226). -/
theorem complete_storeBytes_answer {s : State} (bs : List Byte) {n : Nat} (hn : bs.length = n)
    (h : s.pcUpdated = false) (hwf : Memory.wf s.cfg s.mem) :
    ∃ t, complete (storeBytes 0 bs s) = .next t ∧
      (∀ (k : Nat) (hk : k < n), s.dataAddr k < memSize → t.byteAt (s.dataAddr k) = bs[k]) ∧
      t.diagLog = s.diagLog ++ s.oobEntries .memWriteOob n ∧
      t.outputs = s.outputs ++ diagEvents (s.oobEntries .memWriteOob n) ∧ t.pc = s.pc + 2 ∧
      Frame { log := true, ports := true, mem := (List.range n).map s.dataAddr } s t := by
  subst hn
  have hpc := State.commonAdvance_pc_of_not_updated ((storeBytes_pcUpdated bs 0 s).trans h)
  rw [storeBytes_pc] at hpc
  have hbytes (k : Nat) (hk : k < bs.length) := storeBytes_byteAt bs 0 hwf k hk
  simp only [Nat.zero_add] at hbytes
  obtain ⟨t, e, hframe⟩ := store_answersWithin s bs rfl
  cases e
  rw [← oobFrom_zero]
  exact ⟨_, rfl, hbytes, storeBytes_log bs 0 s, storeBytes_outputs bs 0 s, hpc, hframe⟩

/-- Settles O34: the three stored bytes are the digits, each below 10, so that none is cut to a byte. -/
theorem storesDecimalDigits : Obligations.StoresDecimalDigits := by
  unfold Obligations.StoresDecimalDigits
  intro s x h hwf
  obtain ⟨t, e, hbytes, rest⟩ := complete_storeBytes_answer (decimalDigits (s.reg x)) (n := 3) rfl h hwf
  have hdigit {d : Nat} (hd : d < 10) : (BitVec.ofNat 8 d).toNat = d := Nat.mod_eq_of_lt (hd.trans (by decide))
  exact ⟨t, e, fun ha => hbytes 0 (by decide) ha ▸ hdigit (by omega),
    fun ha => hbytes 1 (by decide) ha ▸ hdigit (by omega),
    fun ha => hbytes 2 (by decide) ha ▸ hdigit (by omega), rest⟩

/-- Settles O35: the byte stored at offset r is the r-th of V0..VX, which is V[r]. -/
theorem storesRegisterRange : Obligations.StoresRegisterRange := by
  unfold Obligations.StoresRegisterRange
  intro s x h hwf
  have hlen : ((regsUpTo x).map s.reg).length = x.val + 1 := by rw [List.length_map, regsUpTo_length]
  obtain ⟨t, e, hbytes, rest⟩ := complete_storeBytes_answer _ hlen h hwf
  refine ⟨t, e, fun r hr ha => ?_, rest⟩
  rw [hbytes r.val (Nat.lt_succ_of_le hr) ha, List.getElem_map, regsUpTo_getElem]

/-! ## Loads from I on -/

/-- Settles O36: the loop over V0..VX reads offset r for V[r], and no register above VX is in it. -/
theorem loadsRegisterRange : Obligations.LoadsRegisterRange := by
  unfold Obligations.LoadsRegisterRange
  intro s x h
  have hpc := State.commonAdvance_pc_of_not_updated ((loadRegs_pcUpdated (regsUpTo x) s).trans h)
  rw [loadRegs_pc] at hpc
  have hframe := loadRegs_frame (regsUpTo x) s
  obtain ⟨hread, hregs⟩ := loadRegs_spec (regsUpTo x) 0 (regsUpTo_vals x) (ReadAfter.start s)
  have houtputs := loadRegs_outputs (regsUpTo x) 0 (regsUpTo_vals x) (ReadAfter.start s)
  rw [oobFrom_zero, regsUpTo_length] at houtputs
  rw [Nat.zero_add, regsUpTo_length] at hread
  exact ⟨_, rfl, fun r hr => hregs r (mem_regsUpTo.mpr hr),
    fun r hr => hframe.regs r fun hmem => hr.not_ge (mem_regsUpTo.mp hmem), hread.draws,
    oobFrom_zero s .memReadOob _ ▸ hread.log, houtputs, hpc, hframe.advance⟩

end Sys2Proof.Machine
end

section
/-! PROOF. The display instructions on the pixels (R180 to R188). -/

namespace Sys2Proof.Machine

/-! ## Clearing -/

/-- Settles O37: every pixel of the new array is 0, and the clear writes FB and its port alone. -/
theorem clearEmptiesDisplay : Obligations.ClearEmptiesDisplay :=
  fun s h => ⟨_, rfl, pixelOf_clear _ _, clear_shape s.cfg, State.commonAdvance_pc_of_not_updated (s := s.fbClear) h,
    rfl, s.fbClear_frame.advance⟩

/-! ## One draw -/

/-- What R7 asks of the display's two sizes. -/
theorem display_sizes_of_wf {c : Config} (h : c.wf = true) :
    c.displayW % 8 = 0 ∧ 8 ≤ c.displayW ∧ 0 < c.displayH := by
  simp only [Config.wf, Config.widthOk, Config.heightOk, Bool.and_eq_true, decide_eq_true_eq] at h
  obtain ⟨⟨⟨⟨hmod, hw⟩, hh⟩, -⟩, -⟩ := h
  exact ⟨hmod, hw, hh⟩

theorem flagByte_eq_one_iff {c : Bool} : flagByte c = 1 ↔ c = true := by
  cases c <;> decide

theorem flagByte_eq_zero_iff {c : Bool} : flagByte c = 0 ↔ c = false := by
  cases c <;> decide

/-- The common advance leaves VF as an instruction's last write set it. -/
theorem State.reg_vF_of_flag_last (u : State) (b : Byte) : (u.setReg vF b).commonAdvance.reg vF = b :=
  u.reg_setReg_self vF b

/-- DXYN draws its rows and then writes to VF whether one of them collided (R181, R183). -/
theorem exec_opDXYN_drawn {s : State} (x y : Reg) (n : BitVec 4) (hwf : s.cfg.wf = true) (hfb : FbShape s.cfg s.fb) :
    ∃ drawn : Bool × State, exec (.opDXYN x y n) s = complete (drawn.2.setReg vF (flagByte drawn.1)) ∧
      (drawn.1 = true ↔ ∃ r < n.toNat, s.rowCollides (s.reg x).toNat (s.reg y).toNat r) ∧
      DrawnTo s (s.reg x).toNat (s.reg y).toNat n.toNat drawn.2 := by
  obtain ⟨-, hw, hh⟩ := display_sizes_of_wf hwf
  obtain ⟨hcollided, hdrawn⟩ := drawSprite_spec hw hh n.toNat (DrawnTo.start hfb (s.reg x).toNat (s.reg y).toNat)
  rw [Nat.zero_add] at hcollided hdrawn
  exact ⟨_, rfl, by simpa using hcollided, hdrawn⟩

/-- Settles O38: the rows are drawn one after another, and VF is written last. -/
theorem drawFlipsSpritePixels : Obligations.DrawFlipsSpritePixels := by
  unfold Obligations.DrawFlipsSpritePixels
  intro s x y n h hwf hfb
  obtain ⟨drawn, e, hcollided, hdrawn⟩ := exec_opDXYN_drawn x y n hwf hfb
  obtain ⟨hreads, -, hpixel, houtputs⟩ := hdrawn
  have hpc := State.commonAdvance_pc_of_not_updated (s := drawn.2.setReg vF (flagByte drawn.1))
    ((exec_pcUpdated e rfl).trans h)
  rw [State.setReg_pc, hreads.pc] at hpc
  refine ⟨_, e, fun px _ py _ => hpixel px py, ?_, ?_, ?_, houtputs, hreads.draws, hpc, exec_frame e⟩
  · rw [State.reg_vF_of_flag_last, flagByte_eq_zero_iff, flagByte_eq_one_iff]
    exact (Bool.eq_false_or_eq_true drawn.1).symm
  · rw [State.reg_vF_of_flag_last, flagByte_eq_one_iff, hcollided]
  · rw [← oobFrom_zero]
    exact hreads.log

/-! ## The same draw twice -/

/-- The pixels determine an array of the display's shape. -/
theorem fb_ext {c : Config} {fb fb' : List (List Bool)} (h : FbShape c fb) (h' : FbShape c fb')
    (hpixel : ∀ px py, pixelOf fb px py = pixelOf fb' px py) : fb = fb' := by
  refine List.ext_getElem (h.1.trans h'.1.symm) fun py hy hy' => ?_
  refine List.ext_getElem ((h.2 _ (List.getElem_mem hy)).trans (h'.2 _ (List.getElem_mem hy')).symm) fun px hx hx' => ?_
  have := hpixel px py
  simpa [pixelOf, hy, hy', hx, hx'] using this

section
variable {s : State} {x0 y0 px py : Nat}

/-- Rows of a sprite no higher than the display land on different rows of it. -/
theorem rowHits_row_unique {n q r : Nat} (hn : n ≤ s.cfg.displayH) (hq : q < n) (hr : r < n)
    (hitq : s.rowHits x0 y0 px py q = true) (hitr : s.rowHits x0 y0 px py r = true) : q = r := by
  simp only [State.rowHits, Bool.and_eq_true, decide_eq_true_eq] at hitq hitr
  have hmod : q ≡ r [MOD s.cfg.displayH] := Nat.ModEq.add_left_cancel' y0 (hitq.1.trans hitr.1.symm)
  exact hmod.eq_of_lt_of_lt (by omega) (by omega)

/-- A pixel that row `r` alone hits is flipped from there on. -/
theorem flipped_of_only_hit {n r : Nat} (h : ∀ q < n, s.rowHits x0 y0 px py q = decide (q = r)) :
    s.flipped x0 y0 px py n = decide (r < n) := by
  induction n with
  | zero => rfl
  | succ n ih =>
    rw [State.flipped_succ, ih fun q hq => h q (by omega), h n (by omega)]
    rcases Nat.lt_trichotomy r n with hlt | heq | hgt
    · simp [hlt, hlt.ne', hlt.trans (Nat.lt_succ_self n)]
    · simp [heq]
    · simp [hgt.not_gt, hgt.ne, hgt]

end

/-- With N <= H, a pixel hit by row `r` is not flipped by the rows above it, and is by the whole sprite. -/
theorem flipped_of_hit {s : State} {x0 y0 px py n r : Nat} (hn : n ≤ s.cfg.displayH) (hr : r < n)
    (hit : s.rowHits x0 y0 px py r = true) :
    s.flipped x0 y0 px py r = false ∧ s.flipped x0 y0 px py n = true := by
  have honly : ∀ q < n, s.rowHits x0 y0 px py q = decide (q = r) := fun q hq => by
    rw [Bool.eq_iff_iff, decide_eq_true_eq]
    exact ⟨fun hitq => rowHits_row_unique hn hq hr hitq hit, fun e => e ▸ hit⟩
  rw [flipped_of_only_hit fun q hq => honly q (hq.trans hr), flipped_of_only_hit honly]
  simp [hr]

/-- Inside memory a data read gives the cell (R52). -/
theorem State.dataByte_of_inside {s : State} {n k : Nat} (hn : s.dataAddr n ≤ memSize) (hk : k < n) :
    s.dataByte k = s.byteAt (s.dataAddr k) := by
  rw [State.dataByte, if_pos]
  simp only [State.dataAddr] at *
  omega

/-- `u` has the configuration and the sprite of `s`, and the pixels of `s` after the sprite's `n` rows. -/
structure DrawnOver (s : State) (x0 y0 n : Nat) (u : State) : Prop where
  cfg : u.cfg = s.cfg
  rowHits : ∀ r < n, ∀ px py, u.rowHits x0 y0 px py r = s.rowHits x0 y0 px py r
  pixel : ∀ px py, u.pixel px py = (s.pixel px py ^^ s.flipped x0 y0 px py n)

theorem DrawnOver.flipped {s u : State} {x0 y0 n : Nat} (h : DrawnOver s x0 y0 n u) {r : Nat} (hr : r ≤ n)
    (px py : Nat) : u.flipped x0 y0 px py r = s.flipped x0 y0 px py r := by
  induction r with
  | zero => rfl
  | succ r ih => rw [State.flipped_succ, State.flipped_succ, ih (by omega), h.rowHits r hr]

/-- With N <= H, a row of the second draw collides where it hits a pixel that was 0 before the first (R188). -/
theorem DrawnOver.rowCollides_iff {s u : State} {x0 y0 n : Nat} (h : DrawnOver s x0 y0 n u)
    (hn : n ≤ s.cfg.displayH) {r : Nat} (hr : r < n) :
    u.rowCollides x0 y0 r ↔ ∃ px < s.cfg.displayW, ∃ py < s.cfg.displayH,
      s.rowHits x0 y0 px py r = true ∧ s.pixel px py = false := by
  have hpixel : ∀ px py, (u.rowHits x0 y0 px py r = true ∧ (u.pixel px py ^^ u.flipped x0 y0 px py r) = true) ↔
      (s.rowHits x0 y0 px py r = true ∧ s.pixel px py = false) := fun px py => by
    rw [h.rowHits r hr, h.flipped hr.le, h.pixel]
    refine and_congr_right fun hit => ?_
    obtain ⟨habove, hwhole⟩ := flipped_of_hit hn hr hit
    simp [habove, hwhole]
  simp only [State.rowCollides, h.cfg, hpixel]

/-- With N <= H, no row collides on a clear display (R188). -/
theorem not_rowCollides_of_clear {s : State} {x0 y0 n r : Nat} (hn : n ≤ s.cfg.displayH) (hr : r < n)
    (hclear : ∀ px py, s.pixel px py = false) : ¬ s.rowCollides x0 y0 r := by
  rintro ⟨px, -, py, -, hit, hset⟩
  rw [hclear, (flipped_of_hit hn hr hit).1] at hset
  exact Bool.noConfusion hset

/-- The state that R188 asks for before the second draw: the display of the first draw's end, and the configuration,
I and the sprite's bytes of its beginning. -/
theorem DrawnTo.drawnOver {s w u : State} {x0 y0 n : Nat} (h : DrawnTo s x0 y0 n w) (hinside : s.dataAddr n ≤ memSize)
    (hfb : u.fb = w.fb) (hcfg : u.cfg = s.cfg) (hi : u.i = s.i)
    (hbytes : ∀ k < n, u.byteAt (s.dataAddr k) = s.byteAt (s.dataAddr k)) : DrawnOver s x0 y0 n u := by
  have haddr : u.dataAddr = s.dataAddr := funext fun k => by rw [State.dataAddr, hi, State.dataAddr]
  refine ⟨hcfg, fun r hr px py => ?_, fun px py => ?_⟩
  · have hbyte : u.dataByte r = s.dataByte r := by
      rw [State.dataByte_of_inside (haddr ▸ hinside) hr, State.dataByte_of_inside hinside hr, haddr, hbytes r hr]
    rw [State.rowHits, hbyte, hcfg, State.rowHits]
  · rw [State.pixel, hfb]
    exact h.pixel px py

/-- Settles O39: a pixel is flipped as often by the second draw as by the first. -/
theorem drawTwiceRestoresDisplay : Obligations.DrawTwiceRestoresDisplay := by
  unfold Obligations.DrawTwiceRestoresDisplay
  intro s t u x y n hwf hfb hinside e hut hucfg hui hux huy hubytes
  obtain ⟨first, efirst, hfirst, hdrawn⟩ := exec_opDXYN_drawn x y n hwf hfb
  cases efirst.symm.trans e
  have hufb : u.fb = first.2.fb := hut
  have hover := hdrawn.drawnOver hinside hufb hucfg hui hubytes
  obtain ⟨second, esecond, hsecond, hdrawn'⟩ :=
    exec_opDXYN_drawn x y n (hucfg ▸ hwf) (s := u) (hucfg ▸ hufb ▸ hdrawn.shape)
  rw [hux, huy] at hsecond hdrawn'
  refine ⟨_, esecond, fb_ext (hucfg ▸ hdrawn'.shape) hfb fun px py => ?_, fun hn => ⟨?_, fun hclear => ?_⟩⟩
  · have := hdrawn'.pixel px py
    rw [hover.flipped le_rfl, hover.pixel, Bool.xor_assoc, Bool.xor_self, Bool.xor_false] at this
    exact this
  · rw [State.reg_vF_of_flag_last, flagByte_eq_one_iff, hsecond]
    exact exists_congr fun r => and_congr_right fun hr => hover.rowCollides_iff hn hr
  · rw [State.reg_vF_of_flag_last, flagByte_eq_zero_iff, ← Bool.not_eq_true, hfirst]
    exact fun ⟨r, hr, hcollides⟩ => not_rowCollides_of_clear hn hr hclear hcollides

end Sys2Proof.Machine
end

section
/-! PROOF. The packed view of the framebuffer: its bytes, and its row XOR as the pixel loop of `fb_drawRow` (R187). -/

namespace Sys2Proof.Machine

/-! ## Sprite bits of a packed byte -/

/-- Bits counted from the left determine a byte. -/
theorem byte_ext {a b : Byte} (h : ∀ i < 8, spriteBit a i = spriteBit b i) : a = b := by
  refine BitVec.eq_of_getLsbD_eq fun k hk => ?_
  have := h (7 - k) (by omega)
  rwa [spriteBit, spriteBit, show 7 - (7 - k) = k by omega] at this

theorem byte_ne_zero_iff {b : Byte} : b ≠ 0 ↔ ∃ i < 8, spriteBit b i = true := by
  constructor
  · intro h
    by_contra! hnone
    exact h (byte_ext fun i hi => by simpa [spriteBit] using hnone i hi)
  · rintro ⟨i, -, hi⟩ rfl
    simp [spriteBit] at hi

theorem spriteBit_and (a b : Byte) (i : Nat) : spriteBit (a &&& b) i = (spriteBit a i && spriteBit b i) :=
  BitVec.getLsbD_and

theorem spriteBit_xor (a b : Byte) (i : Nat) : spriteBit (a ^^^ b) i = (spriteBit a i ^^ spriteBit b i) :=
  BitVec.getLsbD_xor

theorem spriteBit_ite_zero (c : Prop) [Decidable c] (b : Byte) (i : Nat) :
    spriteBit (if c then b else 0) i = (decide c && spriteBit b i) := by
  by_cases h : c <;> simp [h, spriteBit]

/-- `hi` holds the sprite byte's bits from offset s on (R187). -/
theorem spriteBit_packedHi (w x : Nat) (b : Byte) {i : Nat} (hi : i < 8) :
    spriteBit (packedHi w x b) i = (decide (x % w % 8 ≤ i) && spriteBit b (i - x % w % 8)) := by
  have hs := Nat.mod_lt (x % w) (show 0 < 8 by decide)
  rw [packedHi, spriteBit, BitVec.getLsbD_ushiftRight, spriteBit]
  by_cases h : x % w % 8 ≤ i
  · rw [show x % w % 8 + (7 - i) = 7 - (i - x % w % 8) by omega]
    simp [h]
  · rw [BitVec.getLsbD_of_ge _ _ (by omega)]
    simp [h]

/-- `lo` holds below offset s the sprite byte's last s bits (R187). -/
theorem spriteBit_packedLo (w x : Nat) (b : Byte) {i : Nat} (hi : i < 8) :
    spriteBit (packedLo w x b) i = (decide (i < x % w % 8) && spriteBit b (i + 8 - x % w % 8)) := by
  have hs := Nat.mod_lt (x % w) (show 0 < 8 by decide)
  rw [packedLo, spriteBit_ite_zero, spriteBit, BitVec.getLsbD_shiftLeft, spriteBit]
  by_cases h : i < x % w % 8
  · rw [show 7 - i - (8 - x % w % 8) = 7 - (i + 8 - x % w % 8) by omega]
    simp [h, show 0 < x % w % 8 by omega, show 7 - i < 8 by omega, show ¬ 7 - i < 8 - x % w % 8 by omega]
  · simp [h, show 7 - i < 8 - x % w % 8 by omega]

/-- The byte's number, bit by bit from the right. -/
theorem packByte_eq_bits (p0 p1 p2 p3 p4 p5 p6 p7 : Bool) :
    packByte p0 p1 p2 p3 p4 p5 p6 p7 = BitVec.ofNat 8
      (Nat.bit p7 (Nat.bit p6 (Nat.bit p5 (Nat.bit p4 (Nat.bit p3 (Nat.bit p2 (Nat.bit p1 (Nat.bit p0 0)))))))) := by
  have hbit : ∀ p, bitNat p = p.toNat := fun p => by cases p <;> rfl
  simp only [packByte, hbit, Nat.bit_val]
  congr 1
  ring

/-- `packByte` puts its first pixel at the left (R187). -/
theorem spriteBit_packByte (p : Nat → Bool) {i : Nat} (hi : i < 8) :
    spriteBit (packByte (p 0) (p 1) (p 2) (p 3) (p 4) (p 5) (p 6) (p 7)) i = p i := by
  rw [packByte_eq_bits, spriteBit, BitVec.getLsbD_ofNat]
  interval_cases i <;> simp [Nat.testBit_bit_succ]

/-- fbbyte[row][k] holds pixel 8k + i at its i-th bit from the left (R187). -/
theorem spriteBit_packedByteOf (fb : List (List Bool)) (row k : Nat) {i : Nat} (hi : i < 8) :
    spriteBit (packedByteOf fb row k) i = pixelOf fb (8 * k + i) row :=
  spriteBit_packByte (fun j => pixelOf fb (8 * k + j) row) hi

/-! ## The framebuffer port -/

theorem packedFramebuffer_layout {s : State} (hwf : s.cfg.wf = true) {x y : Nat} (hx : x < s.cfg.displayW)
    (hy : y < s.cfg.displayH) :
    (s.packedFramebuffer[y * (s.cfg.displayW / 8) + x / 8]?).map (fun b => b.getLsbD (7 - x % 8)) =
      some (s.pixel x y) := by
  obtain ⟨hmod, -, -⟩ := display_sizes_of_wf hwf
  obtain ⟨m, hm⟩ := Nat.dvd_of_mod_eq_zero hmod
  have hcol : x / 8 < m := by omega
  have hsize : y * m + x / 8 < m * s.cfg.displayH := by nlinarith
  have hrow : (y * m + x / 8) / m = y := by
    rw [mul_comm, Nat.mul_add_div (by omega), Nat.div_eq_of_lt hcol, add_zero]
  have hcolumn : (y * m + x / 8) % m = x / 8 := by
    rw [mul_comm, Nat.mul_add_mod, Nat.mod_eq_of_lt hcol]
  have hbit := spriteBit_packedByteOf s.fb y (x / 8) (Nat.mod_lt x (show 0 < 8 by decide))
  rw [Nat.div_add_mod] at hbit
  rw [State.packedFramebuffer, hm, Nat.mul_div_cancel_left m (by decide), mul_assoc,
    Nat.mul_div_cancel_left _ (by decide), List.getElem?_map, List.getElem?_range hsize]
  simp only [Option.map_some, hrow, hcolumn]
  exact congrArg some hbit

/-! ## The row XOR -/

section
variable {w x j : Nat}

/-- Sprite columns that fit behind the offset s lie in byte column k (R187). -/
theorem column_in_first_byte (hw : w % 8 = 0) (hw8 : 8 ≤ w) (hj : x % w % 8 + j < 8) :
    (x + j) % w = 8 * packedColumn w x + (x % w % 8 + j) := by
  have := Nat.mod_lt x (show 0 < w by omega)
  rw [← Nat.mod_add_mod, Nat.mod_eq_of_lt (by omega), packedColumn]
  omega

/-- The other sprite columns lie in the next byte column, behind a row's last byte its first (R187). -/
theorem column_in_next_byte (hw : w % 8 = 0) (hw8 : 8 ≤ w) (hj : j < 8) (hover : 8 ≤ x % w % 8 + j) :
    (x + j) % w = 8 * packedNextColumn w x + (x % w % 8 + j - 8) := by
  have hx := Nat.mod_lt x (show 0 < w by omega)
  rw [← Nat.mod_add_mod, packedNextColumn, packedColumn]
  rcases Nat.lt_or_ge (x % w / 8 + 1) (w / 8) with hin | hlast
  · rw [Nat.mod_eq_of_lt hin, Nat.mod_eq_of_lt (by omega)]
    omega
  · rw [show x % w / 8 + 1 = w / 8 by omega, Nat.mod_self, Nat.mod_eq_sub_mod (by omega), Nat.mod_eq_of_lt (by omega)]
    omega

/-- A set sprite bit lands on pixel 8k + i exactly where `hi` in byte column k or `lo` in the next one is set there. -/
theorem sprite_hits_iff (b : Byte) (hw : w % 8 = 0) (hw8 : 8 ≤ w) {k i : Nat} (hi : i < 8) :
    (∃ j < 8, spriteBit b j = true ∧ (x + j) % w = 8 * k + i) ↔
      (k = packedColumn w x ∧ spriteBit (packedHi w x b) i = true) ∨
      (k = packedNextColumn w x ∧ spriteBit (packedLo w x b) i = true) := by
  rw [spriteBit_packedHi w x b hi, spriteBit_packedLo w x b hi]
  simp only [Bool.and_eq_true, decide_eq_true_eq]
  constructor
  · rintro ⟨j, hj, hb, hland⟩
    rcases Nat.lt_or_ge (x % w % 8 + j) 8 with hfirst | hnext
    · rw [column_in_first_byte hw hw8 hfirst] at hland
      refine .inl ⟨by omega, by omega, ?_⟩
      rwa [show i - x % w % 8 = j by omega]
    · rw [column_in_next_byte hw hw8 hj hnext] at hland
      refine .inr ⟨by omega, by omega, ?_⟩
      rwa [show i + 8 - x % w % 8 = j by omega]
  · rintro (⟨rfl, hs, hb⟩ | ⟨rfl, hs, hb⟩)
    · refine ⟨_, by omega, hb, ?_⟩
      rw [column_in_first_byte hw hw8 (by omega)]
      omega
    · refine ⟨_, by omega, hb, ?_⟩
      rw [column_in_next_byte hw hw8 (by omega) (by omega)]
      omega

/-- `hi` and `lo` have no bit in common, so they may share a byte (W = 8). -/
theorem packedHi_packedLo_disjoint (b : Byte) {i : Nat} (hi : i < 8) :
    spriteBit (packedHi w x b) i = false ∨ spriteBit (packedLo w x b) i = false := by
  rw [spriteBit_packedHi w x b hi, spriteBit_packedLo w x b hi]
  rcases Nat.lt_or_ge i (x % w % 8) with h | h
  · simp [h.not_ge]
  · simp [h.not_gt]

end

/-- The pixels that a drawn row flips are the set bits of `hi` in byte column k and of `lo` in the next one. -/
theorem drawRow_flips {c : Config} {fb : List (List Bool)} (hwf : c.wf = true) (hfb : FbShape c fb) (x y : Nat)
    (b : Byte) (r k : Nat) {i : Nat} (hi : i < 8) :
    pixelOf (drawRow c.displayW c.displayH x y b fb).2 (8 * k + i) r =
      (pixelOf fb (8 * k + i) r ^^
        (decide (r = y % c.displayH ∧ k = packedColumn c.displayW x) && spriteBit (packedHi c.displayW x b) i) ^^
        (decide (r = y % c.displayH ∧ k = packedNextColumn c.displayW x) && spriteBit (packedLo c.displayW x b) i)) := by
  obtain ⟨hmod, hw, hh⟩ := display_sizes_of_wf hwf
  rw [(drawRow_spec hw hh x y b hfb).2, Bool.xor_assoc]
  congr 1
  have hhits : ((List.range 8).any fun j => spriteBit b j && decide ((x + j) % c.displayW = 8 * k + i)) =
      (decide (k = packedColumn c.displayW x) && spriteBit (packedHi c.displayW x b) i ||
        decide (k = packedNextColumn c.displayW x) && spriteBit (packedLo c.displayW x b) i) := by
    rw [Bool.eq_iff_iff]
    simpa using sprite_hits_iff (x := x) b hmod hw (k := k) hi
  rw [hhits]
  by_cases hr : y % c.displayH = r
  · rcases packedHi_packedLo_disjoint (w := c.displayW) (x := x) b hi with hoff | hoff <;> simp [hr, hoff]
  · simp [hr, Ne.symm hr]

/-- A row collides where `hi` meets byte k or `lo` the next byte (R187). -/
theorem drawRow_collides {c : Config} {fb : List (List Bool)} (hwf : c.wf = true) (hfb : FbShape c fb) (x y : Nat)
    (b : Byte) :
    (drawRow c.displayW c.displayH x y b fb).1 = true ↔
      packedByteOf fb (y % c.displayH) (packedColumn c.displayW x) &&& packedHi c.displayW x b ≠ 0 ∨
      packedByteOf fb (y % c.displayH) (packedNextColumn c.displayW x) &&& packedLo c.displayW x b ≠ 0 := by
  obtain ⟨hmod, hw, hh⟩ := display_sizes_of_wf hwf
  have hhits {k i : Nat} (hi : i < 8) := sprite_hits_iff (x := x) b hmod hw (k := k) hi
  rw [(drawRow_spec hw hh x y b hfb).1, byte_ne_zero_iff, byte_ne_zero_iff]
  simp only [List.any_eq_true, List.mem_range, Bool.and_eq_true, spriteBit_and]
  constructor
  · rintro ⟨j, hj, hb, hset⟩
    have hi := Nat.mod_lt ((x + j) % c.displayW) (show 0 < 8 by decide)
    have hland := Nat.div_add_mod ((x + j) % c.displayW) 8
    rw [← hland] at hset
    rcases (hhits hi).mp ⟨j, hj, hb, hland.symm⟩ with ⟨hk, hbit⟩ | ⟨hk, hbit⟩
    · exact .inl ⟨_, hi, by rwa [← hk, spriteBit_packedByteOf _ _ _ hi], hbit⟩
    · exact .inr ⟨_, hi, by rwa [← hk, spriteBit_packedByteOf _ _ _ hi], hbit⟩
  · rintro (⟨i, hi, hset, hbit⟩ | ⟨i, hi, hset, hbit⟩) <;> rw [spriteBit_packedByteOf _ _ _ hi] at hset
    · obtain ⟨j, hj, hb, hland⟩ := (hhits hi).mpr (.inl ⟨rfl, hbit⟩)
      exact ⟨j, hj, hb, hland ▸ hset⟩
    · obtain ⟨j, hj, hb, hland⟩ := (hhits hi).mpr (.inr ⟨rfl, hbit⟩)
      exact ⟨j, hj, hb, hland ▸ hset⟩

/-- Settles O40: a packed byte is eight pixels, and the sprite's columns meet at most two of a row's bytes. -/
theorem packedRowXorIsDrawRow : Obligations.PackedRowXorIsDrawRow := by
  unfold Obligations.PackedRowXorIsDrawRow
  refine ⟨fun s hwf => ⟨?_, fun x hx y hy => packedFramebuffer_layout hwf hx hy⟩,
    fun c fb x y b hwf hfb => ⟨?_, fun r _ k _ => byte_ext fun i hi => ?_⟩⟩
  · rw [State.packedFramebuffer, List.length_map, List.length_range]
  · rw [Bool.eq_iff_iff, drawRow_collides hwf hfb]
    simp only [Bool.or_eq_true, decide_eq_true_eq]
  · rw [spriteBit_xor, spriteBit_xor, spriteBit_ite_zero, spriteBit_ite_zero, spriteBit_packedByteOf _ _ _ hi,
      spriteBit_packedByteOf _ _ _ hi]
    exact drawRow_flips hwf hfb x y b r k hi

end Sys2Proof.Machine
end

section
/-! PROOF. The key and timer instructions (R200 to R206). -/

namespace Sys2Proof.Machine

/-! ## The timers -/

/-- An instruction that only writes DT leaves the written byte there and PC + 2, all else unchanged (R96). -/
theorem complete_setDelay_answer {s : State} (b : Byte) (h : s.pcUpdated = false) :
    ∃ t, complete (s.setDelay b) = .next t ∧ t.dt = b ∧ t.pc = s.pc + 2 ∧ Frame { delay := true } s t :=
  ⟨_, rfl, rfl, State.commonAdvance_pc_of_not_updated h, (s.setDelay_frame b).advance⟩

/-- Settles O42: each is one write, of DT to VX or of VX to DT. -/
theorem delayTimerReadAndWrite : Obligations.DelayTimerReadAndWrite :=
  fun s x h => ⟨complete_setReg_answer x s.dt h, complete_setDelay_answer (s.reg x) h⟩

/-- A write that takes ST from 0 turns the tone on (R204). -/
theorem State.setSound_of_leaves_zero {s : State} {b : Byte} (h : s.st = 0 ∧ b ≠ 0) :
    (s.setSound b).tone = true ∧ (s.setSound b).outputs = s.outputs ++ [.tone true] :=
  ⟨if_pos h, if_pos h⟩

/-- A write that takes ST to 0 turns the tone off (R204). -/
theorem State.setSound_of_reaches_zero {s : State} {b : Byte} (h : s.st ≠ 0 ∧ b = 0) :
    (s.setSound b).tone = false ∧ (s.setSound b).outputs = s.outputs ++ [.tone false] := by
  have hoff : ¬(s.st = 0 ∧ b ≠ 0) := fun hon => h.1 hon.1
  exact ⟨(if_neg hoff).trans (if_pos h), (if_neg hoff).trans (if_pos h)⟩

/-- A write that keeps ST at 0, or away from 0, leaves the tone alone (R204). -/
theorem State.setSound_of_no_transition {s : State} {b : Byte} (h : s.st = 0 ∧ b = 0 ∨ s.st ≠ 0 ∧ b ≠ 0) :
    (s.setSound b).tone = s.tone ∧ (s.setSound b).outputs = s.outputs := by
  have hon : ¬(s.st = 0 ∧ b ≠ 0) := by tauto
  have hoff : ¬(s.st ≠ 0 ∧ b = 0) := by tauto
  exact ⟨(if_neg hon).trans (if_neg hoff), (if_neg hon).trans (if_neg hoff)⟩

/-- Settles O43: ST leaves 0, reaches 0, or does neither. -/
theorem soundTimerWrite : Obligations.SoundTimerWrite :=
  fun s x h => ⟨_, rfl, rfl, State.commonAdvance_pc_of_not_updated (s := s.setSound (s.reg x)) h,
    State.setSound_of_leaves_zero, State.setSound_of_reaches_zero, State.setSound_of_no_transition,
    (s.setSound_frame _).advance⟩

/-! ## The key skips -/

/-- What the key test of `b` appends to the log: KEY_RANGE where `b` names no key (R206, R226). -/
def State.keyDiag (s : State) (b : Byte) : List DiagEntry :=
  if 0xF < b.toNat then s.diagOf .keyRange b.toNat else []

/-- All that the key test answers: the key's level, not pressed where `b` names no key; PC stays, and the diagnostic goes to
the log and the port (R206). -/
theorem State.keyPressed_spec (s : State) (b : Byte) :
    (s.keyPressed b).1 = (decide (b.toNat ≤ 0xF) && s.keyDown b.toNat) ∧ (s.keyPressed b).2.pc = s.pc ∧
      (s.keyPressed b).2.diagLog = s.diagLog ++ s.keyDiag b ∧
      (s.keyPressed b).2.outputs = s.outputs ++ diagEvents (s.keyDiag b) := by
  rcases s.keyPressed_cases b with ⟨hkey, e⟩ | ⟨hrange, e⟩ <;> rw [e, State.keyDiag]
  · rw [if_neg hkey.not_gt]
    simp [hkey, diagEvents]
  · rw [if_pos hrange]
    exact ⟨by simp [hrange.not_ge], rfl, s.diag_diagLog_append _ _, s.diag_outputs_append _ _⟩

/-- A skip behind a key test ends at PC + 4 or PC + 2 as its condition says, with the test's diagnostic and all else
unchanged (R96, R97, R206). -/
theorem complete_keySkip_answer {s : State} (b : Byte) (cond : Bool) (h : s.pcUpdated = false) :
    ∃ t, complete ((s.keyPressed b).2.skipIf cond) = .next t ∧ t.pc = (if cond then s.pc + 4 else s.pc + 2) ∧
      t.diagLog = s.diagLog ++ s.keyDiag b ∧ t.outputs = s.outputs ++ diagEvents (s.keyDiag b) ∧
      Frame { log := true, ports := true } s t := by
  obtain ⟨-, hpc, hlog, hports⟩ := s.keyPressed_spec b
  obtain ⟨t, e, hframe⟩ := key_skip_answersWithin s b cond
  cases e
  have hskip := State.skipIf_commonAdvance_pc cond ((s.keyPressed_pcUpdated b).trans h)
  rw [hpc] at hskip
  exact ⟨_, rfl, hskip, hlog, hports, hframe⟩

/-- Settles O41: both are the one key test, EX9E with its answer and EXA1 with the answer negated. -/
theorem keySkips : Obligations.KeySkips := by
  unfold Obligations.KeySkips
  intro s x h
  obtain ⟨hdown, -⟩ := s.keyPressed_spec (s.reg x)
  have hpressed := complete_keySkip_answer (s.reg x) (s.keyPressed (s.reg x)).1 h
  have hreleased := complete_keySkip_answer (s.reg x) (!(s.keyPressed (s.reg x)).1) h
  simp only [Bool.not_eq_true', ← Bool.not_eq_true, ite_not] at hreleased
  simp only [← hdown]
  exact ⟨hpressed, hreleased⟩

/-! ## Waiting for a key -/

/-- The pressed key below which none is pressed is the one found (R205; D11). -/
theorem State.lowestKey_of_lowest {s : State} {k : Nat} (hk : k < 16) (hdown : s.keyDown k = true)
    (hlow : ∀ j < k, s.keyDown j = false) : s.lowestKey = some k := by
  cases hfound : s.lowestKey with
  | none => exact absurd hdown (by simp [State.lowestKey_eq_none.mp hfound k hk])
  | some j =>
    obtain ⟨-, hj, hjlow⟩ := State.lowestKey_eq_some hfound
    have hjk : ¬j < k := fun hlt => by simp [hlow j hlt] at hj
    have hkj : ¬k < j := fun hlt => by simp [hjlow k hlt] at hdown
    exact congrArg some (by omega)

theorem exec_opFX0A_of_found {s : State} (x : Reg) {k : Nat} (h : s.lowestKey = some k) :
    exec (.opFX0A x) s = complete (s.setReg x (BitVec.ofNat 8 k)) := by
  rw [exec, execFX0A, h]

theorem exec_opFX0A_of_none {s : State} (x : Reg) (h : s.lowestKey = none) : exec (.opFX0A x) s = .next s := by
  rw [exec, execFX0A, h, hold_eq]

/-- Settles O44: the lowest pressed key fits a byte; with no key down the instruction holds. -/
theorem waitForKey : Obligations.WaitForKey := by
  unfold Obligations.WaitForKey
  refine fun s x h => ⟨fun k hk hdown hlow => ?_, fun hnone => exec_opFX0A_of_none x (State.lowestKey_eq_none.mpr hnone)⟩
  obtain ⟨t, e, hreg, rest⟩ := complete_setReg_answer x (BitVec.ofNat 8 k) h
  have hfits : (BitVec.ofNat 8 k).toNat = k := Nat.mod_eq_of_lt (by omega)
  exact ⟨t, (exec_opFX0A_of_found x (State.lowestKey_of_lowest hk hdown hlow)).trans e, hreg ▸ hfits, rest⟩

end Sys2Proof.Machine
end

section
/-! PROOF. The steps of the two timers and of the host (R231, R232, R236, R238), which steps answer no next state (R229,
R265), and which steps halt (R221, R222). -/

namespace Sys2Proof.Machine

/-! ## The ticks and the host's steps -/

theorem step_of_agent {s : State} {a : AgentStep} (hl : s.live = true) (ha : s.nextAgent = a) :
    step s = agentStep { s with schedule := s.schedule.tail } a :=
  ha ▸ step_of_live hl

/-- Settles O45: the tick's own definition, with ST's value as a number. -/
theorem soundTick : Obligations.SoundTick := by
  unfold Obligations.SoundTick
  intro s hl ha
  refine ⟨_, step_of_agent hl ha, ?_, rfl, rfl, fun h1 => ?_, fun h1 => ?_, State.soundTick_frame _⟩
  · show (if s.st = 0 then 0 else s.st - 1).toNat = s.st.toNat - 1
    split <;> bv_omega
  · exact ⟨if_pos h1, if_pos h1⟩
  · exact ⟨if_neg h1, if_neg h1⟩

/-- Settles O46: the tick's own definition, with DT's value as a number. -/
theorem delayTick : Obligations.DelayTick := by
  unfold Obligations.DelayTick
  intro s hl ha
  refine ⟨_, step_of_agent hl ha, ?_, rfl, rfl, State.delayTick_frame _⟩
  show (if s.dt = 0 then 0 else s.dt - 1).toNat = s.dt.toNat - 1
  split <;> bv_omega

/-- The key sampler sets its own key and no other (R236). -/
theorem State.setKey_keyDown (s : State) (k : Fin 16) (p : Bool) (j : Nat) :
    (s.setKey k p).keyDown j = if k.val = j then p else s.keyDown j := by
  rw [State.keyDown, State.setKey_key, Vector.getElem?_set]
  split <;> rfl

/-- Settles O47: one entry of KEY is set, and RUN goes where a shutdown request takes it. -/
theorem hostKeysAndShutdown : Obligations.HostKeysAndShutdown := by
  unfold Obligations.HostKeysAndShutdown
  refine fun s hl => ⟨fun k p ha => ?_, fun ha => ?_⟩
  · refine ⟨_, step_of_agent hl ha, ?_, fun j hj => ?_, rfl, rfl, State.setKey_frame _ k p⟩
    · exact (State.setKey_keyDown _ k p _).trans (if_pos rfl)
    · exact (State.setKey_keyDown _ k p j).trans (if_neg hj.symm)
  · refine ⟨_, step_of_agent hl ha, ?_, fun c hr => ?_, fun hr => ?_, rfl, rfl,
      State.requestShutdown_frame _⟩
    · rintro (hr | hr) <;> exact congrArg runAfterShutdown hr
    · exact (congrArg runAfterShutdown hr).trans hr.symm
    · exact (congrArg runAfterShutdown hr).trans hr.symm

/-! ## Which steps answer no next state -/

theorem cpuStep_eq_next (s : State) : ∃ t, cpuStep s = .next t := by
  by_cases hr : s.run = .running
  · rw [cpuStep_of_running hr]
    rcases cycle_cases s with ⟨-, h⟩ | ⟨-, -, h⟩ | ⟨-, -, ⟨i, -, h⟩ | ⟨_, -, h⟩⟩ <;> rw [h]
    · exact ⟨_, rfl⟩
    · exact ⟨_, rfl⟩
    · exact exec_eq_next i _
    · exact ⟨_, rfl⟩
  · exact ⟨s, cpuStep_of_stopped hr⟩

theorem agentStep_eq_next (s : State) (a : AgentStep) : ∃ t, agentStep s a = .next t := by
  cases a with
  | cpu => exact cpuStep_eq_next s
  | delayTick | soundTick => exact ⟨_, rfl⟩
  | host act => exact ⟨_, rfl⟩

/-- Settles O52: every agent's step answers a next state, so only the block's own check can fault. -/
theorem nothingStopsButATornDownBlock : Obligations.NothingStopsButATornDownBlock := by
  unfold Obligations.NothingStopsButATornDownBlock
  refine ⟨exec_eq_next, fun s => ?_⟩
  rcases step_cases s with ⟨h, -⟩ | h
  · rw [h]
    exact .inl (agentStep_eq_next _ _)
  · exact .inr h

/-! ## Which steps halt -/

/-- A CPU step that halts a running engine, other than by its fetch, is a CALL on a full stack or a RETURN on an empty one,
and is precise (R221, R222). -/
theorem cpuStep_halts {s t : State} {code : FatalCode} (e : cpuStep s = .next t) (hs : s.run.isHalted = false)
    (ht : t.run = .halted code) (hfetch : code ≠ .fetchOob) :
    ((code = .stackOverflow ∧ s.sp.val = 16 ∧
        ∃ nnn, decode s.cfg.strictDecode s.fetchWord = .instr (.op2NNN nnn)) ∨
      (code = .stackUnderflow ∧ s.sp.val = 0 ∧ decode s.cfg.strictDecode s.fetchWord = .instr .op00EE)) ∧
    t = State.raiseFatalAtInstr { s with pcUpdated := false } code := by
  have notHalted : s.run ≠ .halted code := fun h => by simp [h, RunState.isHalted] at hs
  rcases cpuStep_cases e with ⟨-, rfl⟩ | ⟨-, rfl | rfl | ⟨i, hd, he⟩ | rfl⟩
  · exact absurd ht notHalted
  · cases ht
  · cases ht
    exact absurd rfl hfetch
  · rcases exec_run_cases he with h | ⟨hsp, ⟨nnn, rfl⟩, rfl⟩ | ⟨hsp, rfl, rfl⟩
    · exact absurd (h.symm.trans ht) notHalted
    · cases ht
      exact ⟨.inl ⟨rfl, hsp, nnn, hd⟩, rfl⟩
    · cases ht
      exact ⟨.inr ⟨rfl, hsp, hd⟩, rfl⟩
  · exact absurd ht notHalted

/-- Of all agents' steps only the CPU's halts an engine that is not HALTED. -/
theorem eq_cpu_of_halts {s t : State} {a : AgentStep} {code : FatalCode} (e : agentStep s a = .next t)
    (hs : s.run.isHalted = false) (ht : t.run = .halted code) : a = .cpu := by
  have notHalted : s.run ≠ .halted code := fun h => by simp [h, RunState.isHalted] at hs
  cases a with
  | cpu => rfl
  | delayTick | soundTick =>
    cases e
    exact absurd ht notHalted
  | host act =>
    cases e
    exact absurd (State.hostStep_run_eq_halted ht) notHalted

/-- Settles O58: ROM_END <= 0x1000 leaves the fetch inside memory, so the stack alone can halt. -/
theorem onlyStackErrorsHalt : Obligations.OnlyStackErrorsHalt := by
  unfold Obligations.OnlyStackErrorsHalt
  intro s t code ⟨_, _, _, _, _, hrom⟩ hs e ht
  have hfetch : code ≠ .fetchOob := by
    rintro rfl
    exact fetchOutOfRangeIsFatal.2 s t hrom (fun h => by simp [h, RunState.isHalted] at hs) e ht
  have ha := agentStep_of_step e
  have hcpu : s.nextAgent = .cpu := eq_cpu_of_halts ha hs ht
  rw [hcpu] at ha
  obtain ⟨hcause, rfl⟩ := cpuStep_halts ha hs ht hfetch
  exact ⟨hcpu, hcause, rfl, rfl, { State.raiseFatalAtInstr_frame _ code with }⟩

end Sys2Proof.Machine
end

section
/-! PROOF. The tone: which steps touch ST, TONE and the Tone events, and that TONE follows ST with one event for each change
(R204, R232, R233, R235, R237). -/

namespace Sys2Proof.Machine

/-! ## Events that are no Tone event -/

theorem toneEvents_append (es fs : List PortEvent) : toneEvents (es ++ fs) = toneEvents es ++ toneEvents fs :=
  List.filterMap_append

/-- An event that is no Tone event adds nothing to the tone's history. -/
theorem toneEvents_concat (es : List PortEvent) {e : PortEvent} (h : toneEvents [e] = []) :
    toneEvents (es ++ [e]) = toneEvents es := by
  rw [toneEvents_append, h, List.append_nil]

theorem toneEvents_diagEvents (log : List DiagEntry) : toneEvents (diagEvents log) = [] := by
  simp [toneEvents, diagEvents]

/-- Surfacing diagnostics emits no tone. -/
theorem toneEvents_append_diagEvents (es : List PortEvent) (log : List DiagEntry) :
    toneEvents (es ++ diagEvents log) = toneEvents es := by
  rw [toneEvents_append, toneEvents_diagEvents, List.append_nil]

theorem State.diag_toneEvents (s : State) (code : DiagCode) (info : Nat) :
    toneEvents (s.diag code info).outputs = toneEvents s.outputs := by
  rw [State.diag_outputs_append, toneEvents_append_diagEvents]

theorem State.memRead_toneEvents (s : State) (a : Nat) :
    toneEvents (s.memRead a).2.outputs = toneEvents s.outputs := by
  rcases s.memRead_cases a with ⟨-, e⟩ | ⟨-, e⟩ <;> rw [e]
  exact s.diag_toneEvents _ _

theorem State.keyPressed_toneEvents (s : State) (b : Byte) :
    toneEvents (s.keyPressed b).2.outputs = toneEvents s.outputs := by
  rcases s.keyPressed_cases b with ⟨-, e⟩ | ⟨-, e⟩ <;> rw [e]
  exact s.diag_toneEvents _ _

theorem storeBytes_toneEvents (bs : List Byte) (k : Nat) (s : State) :
    toneEvents (storeBytes k bs s).outputs = toneEvents s.outputs := by
  rw [storeBytes_outputs, toneEvents_append_diagEvents]

theorem loadRegs_toneEvents (rs : List Reg) (s : State) :
    toneEvents (loadRegs rs s).outputs = toneEvents s.outputs := by
  induction rs generalizing s with
  | nil => rfl
  | cons r rs ih => exact (ih (s.loadReg r)).trans (s.memRead_toneEvents _)

theorem State.fbDrawRow_toneEvents (s : State) (x y : Nat) (b : Byte) :
    toneEvents (s.fbDrawRow x y b).2.outputs = toneEvents s.outputs :=
  toneEvents_concat s.outputs rfl

theorem drawSprite_toneEvents (x0 y0 n row : Nat) (s : State) :
    toneEvents (drawSprite x0 y0 n row s).2.outputs = toneEvents s.outputs := by
  induction n generalizing row s with
  | zero => rfl
  | succ n ih =>
    exact (ih (row + 1) _).trans ((State.fbDrawRow_toneEvents _ _ _ _).trans (s.memRead_toneEvents _))

theorem State.fbClear_toneEvents (s : State) : toneEvents s.fbClear.outputs = toneEvents s.outputs :=
  toneEvents_concat s.outputs rfl

theorem State.raiseFatal_toneEvents (s : State) (code : FatalCode) (word : Option Word) :
    toneEvents (s.raiseFatal code word).outputs = toneEvents s.outputs :=
  toneEvents_concat s.outputs rfl

theorem push_jump_toneEvents {s t : State} {w target : Word}
    (e : (s.push w fun u => complete (u.jumpTo target)) = .next t) : toneEvents t.outputs = toneEvents s.outputs := by
  rcases s.push_cases w fun u => complete (u.jumpTo target) with ⟨_, he⟩ | ⟨-, he⟩ <;> cases he.symm.trans e
  · rfl
  · exact s.raiseFatal_toneEvents _ _

theorem pop_jump_toneEvents {s t : State} (e : (s.pop fun target u => complete (u.jumpTo target)) = .next t) :
    toneEvents t.outputs = toneEvents s.outputs := by
  rcases s.pop_cases fun target u => complete (u.jumpTo target) with ⟨-, he⟩ | ⟨-, he⟩ <;> cases he.symm.trans e
  · rfl
  · exact s.raiseFatal_toneEvents _ _

/-! ## What a step can do to the sound -/

/-- ST and TONE are the same, and no Tone event was emitted. -/
def SameSound (s t : State) : Prop := t.st = s.st ∧ t.tone = s.tone ∧ toneEvents t.outputs = toneEvents s.outputs

theorem SameSound.refl (s : State) : SameSound s s := ⟨rfl, rfl, rfl⟩

theorem exec_toneEvents {i : Instr} {s t : State} (e : exec i s = .next t) (hi : ∀ x, i ≠ .opFX18 x) :
    toneEvents t.outputs = toneEvents s.outputs := by
  cases i with
  | opFX18 x => exact absurd rfl (hi x)
  | op00E0 => cases e; exact s.fbClear_toneEvents
  | op00EE => exact pop_jump_toneEvents e
  | op2NNN nnn => exact push_jump_toneEvents e
  | opDXYN x y n => cases e; exact drawSprite_toneEvents _ _ _ _ s
  | opEX9E x | opEXA1 x => cases e; exact s.keyPressed_toneEvents _
  | opFX33 x | opFX55 x => cases e; exact storeBytes_toneEvents _ _ s
  | opFX65 x => cases e; exact loadRegs_toneEvents _ s
  | _ => rw [(exec_frame e).outputs rfl]

/-- No instruction but FX18 touches the sound (R29, R204). -/
theorem exec_sameSound {i : Instr} {s t : State} (e : exec i s = .next t) (hi : ∀ x, i ≠ .opFX18 x) :
    SameSound s t := by
  have hf := exec_frame e
  have hw : (written s i).sound = false := by
    cases i with
    | opFX18 x => exact absurd rfl (hi x)
    | _ => rfl
  exact ⟨hf.st hw, hf.tone hw, exec_toneEvents e hi⟩

/-- All that a CPU step can do to the sound: an FX18, or nothing. -/
theorem cpuStep_sound_cases {s t : State} (e : cpuStep s = .next t) :
    SameSound s t ∨ ∃ x, s.Runs (.opFX18 x) ∧
      t = (State.setSound { s with pcUpdated := false } (s.reg x)).commonAdvance := by
  by_cases hr : s.run = .running
  · rw [cpuStep_of_running hr] at e
    rcases cycle_cases s with ⟨-, h⟩ | ⟨-, -, h⟩ | ⟨hrom, hmem, ⟨i, hd, h⟩ | ⟨_, -, h⟩⟩ <;> rw [h] at e
    · cases e
      exact .inl (.refl s)
    · cases e
      exact .inl ⟨rfl, rfl, s.raiseFatal_toneEvents _ _⟩
    · by_cases hi : ∃ x, i = .opFX18 x
      · obtain ⟨x, rfl⟩ := hi
        cases e
        exact .inr ⟨x, ⟨hr, hrom, hmem, hd⟩, rfl⟩
      · exact .inl (exec_sameSound (s := { s with pcUpdated := false }) e fun x hx => hi ⟨x, hx⟩)
    · cases e
      exact .inl ⟨rfl, rfl, State.diag_toneEvents _ _ _⟩
  · cases (cpuStep_of_stopped hr).symm.trans e
    exact .inl (.refl s)

/-- All that an agent's step can do to the sound: nothing, an FX18 of the CPU, a sound tick, or a reset. -/
theorem agentStep_sound_cases {s t : State} {a : AgentStep} (e : agentStep s a = .next t) :
    SameSound s t ∨
    (a = .cpu ∧ ∃ x, s.Runs (.opFX18 x) ∧
      t = (State.setSound { s with pcUpdated := false } (s.reg x)).commonAdvance) ∨
    (a = .soundTick ∧ t = s.soundTick) ∨
    (∃ rom bytes, a = .host (.load rom) ∧ t = s.resetWith bytes) := by
  cases a with
  | cpu => exact (cpuStep_sound_cases e).imp_right fun h => .inl ⟨rfl, h⟩
  | delayTick => cases e; exact .inl (.refl s)
  | soundTick => cases e; exact .inr (.inr (.inl ⟨rfl, rfl⟩))
  | host act =>
    cases e
    cases act with
    | setKey _ _ | shutdown | teardown => exact .inl (.refl s)
    | load rom =>
      rcases s.load_cases rom with ⟨bytes, -, -, h⟩ | ⟨_, -, h⟩
      · exact .inr (.inr (.inr ⟨rom, bytes, rfl, h⟩))
      · refine .inl ?_
        change SameSound s (s.load rom)
        rw [h]
        exact ⟨rfl, rfl, toneEvents_concat s.outputs rfl⟩

/-! ## One event for each change of TONE (R233) -/

/-- TONE follows ST after the step, and the step emitted one event with TONE's new level if TONE changed, and none if not. -/
def ToneMoves (s t : State) : Prop :=
  t.toneFollowsSound ∧ toneEvents t.outputs = toneEvents s.outputs ++ (if t.tone = s.tone then [] else [t.tone])

theorem SameSound.toneMoves {s t : State} (h : SameSound s t) (hs : s.toneFollowsSound) : ToneMoves s t := by
  obtain ⟨hst, htone, hout⟩ := h
  refine ⟨?_, by rw [if_pos htone, List.append_nil, hout]⟩
  rw [State.toneFollowsSound, htone, hst]
  exact hs

theorem State.setSound_toneMoves {s : State} (b : Byte) (h : s.toneFollowsSound) : ToneMoves s (s.setSound b) := by
  refine ⟨State.setSound_toneFollowsSound b h, ?_⟩
  unfold State.toneFollowsSound at h
  by_cases hs : s.st = 0#8 <;> by_cases hb : b = 0#8 <;> simp [State.setSound, h, hs, hb, toneEvents]

theorem State.soundTick_toneMoves {s : State} (h : s.toneFollowsSound) : ToneMoves s s.soundTick := by
  refine ⟨State.soundTick_toneFollowsSound h, ?_⟩
  unfold State.toneFollowsSound at h
  by_cases h1 : s.st = 1#8 <;> simp [State.soundTick, h, h1, toneEvents]

theorem State.resetWith_tone (s : State) (rom : List Byte) : (s.resetWith rom).tone = false := by
  rw [State.resetWith_eq]
  rfl

theorem State.resetWith_st (s : State) (rom : List Byte) : (s.resetWith rom).st = 0 := by
  rw [State.resetWith_eq]
  rfl

theorem State.resetWith_outputs (s : State) (rom : List Byte) :
    (s.resetWith rom).outputs = if s.tone then s.outputs ++ [.tone false] else s.outputs := by
  rw [State.resetWith_eq]

/-- A reset turns the tone off (R235). -/
theorem State.resetWith_toneMoves (s : State) (rom : List Byte) : ToneMoves s (s.resetWith rom) := by
  refine ⟨by simp [State.toneFollowsSound, State.resetWith_tone, State.resetWith_st], ?_⟩
  rw [State.resetWith_outputs, State.resetWith_tone]
  cases s.tone <;> simp [toneEvents]

theorem agentStep_toneMoves {s t : State} {a : AgentStep} (e : agentStep s a = .next t) (h : s.toneFollowsSound) :
    ToneMoves s t := by
  rcases agentStep_sound_cases e with hsame | ⟨-, x, -, rfl⟩ | ⟨-, rfl⟩ | ⟨_, bytes, -, rfl⟩
  · exact hsame.toneMoves h
  · exact State.setSound_toneMoves (s := { s with pcUpdated := false }) _ h
  · exact State.soundTick_toneMoves h
  · exact s.resetWith_toneMoves bytes

theorem State.soundTick_tone_eq_false {s : State} (h : s.soundTick.tone ≠ s.tone) : s.soundTick.tone = false := by
  by_cases h1 : s.st = 1
  · exact if_pos h1
  · exact absurd (if_neg h1) h

/-- TONE changes by FX18 alone, and to off also by a sound tick and a reset (R204, R232, R235). -/
theorem agentStep_tone_ne {s t : State} {a : AgentStep} (e : agentStep s a = .next t) (h : t.tone ≠ s.tone) :
    (a = .cpu ∧ ∃ x, decode s.cfg.strictDecode s.fetchWord = .instr (.opFX18 x)) ∨
    (t.tone = false ∧ (a = .soundTick ∨ ∃ rom, a = .host (.load rom))) := by
  rcases agentStep_sound_cases e with ⟨-, htone, -⟩ | ⟨ha, x, ⟨-, -, -, hd⟩, -⟩ | ⟨ha, rfl⟩ | ⟨rom, bytes, ha, rfl⟩
  · exact absurd htone h
  · exact .inl ⟨ha, x, hd⟩
  · exact .inr ⟨State.soundTick_tone_eq_false h, .inl ha⟩
  · exact .inr ⟨s.resetWith_tone bytes, .inr ⟨rom, ha⟩⟩

/-! ## The history alternates -/

theorem alternatesFrom_concat (level b : Bool) (bs : List Bool) :
    alternatesFrom level (bs ++ [b]) = (alternatesFrom level bs && b != bs.getLastD level) := by
  induction bs generalizing level with
  | nil => simp [alternatesFrom]
  | cons c bs ih => rw [List.cons_append, alternatesFrom, ih, alternatesFrom, List.getLastD_cons, Bool.and_assoc]

/-- A history that alternates and ends at the level goes on so when a change, and only a change, appends the new level. -/
theorem alternates_append_change {bs : List Bool} {old new : Bool} (ha : alternatesFrom false bs = true)
    (hl : bs.getLastD false = old) :
    alternatesFrom false (bs ++ if new = old then [] else [new]) = true ∧
      (bs ++ if new = old then [] else [new]).getLastD false = new := by
  by_cases h : new = old
  · rw [if_pos h, List.append_nil]
    exact ⟨ha, hl.trans h.symm⟩
  · rw [if_neg h, alternatesFrom_concat, ha, hl]
    exact ⟨by simpa using h, by simp⟩

/-- Settles O51: the step lemma for every agent, and the history it goes on with. -/
theorem toneEventsExactlyOnChange : Obligations.ToneEventsExactlyOnChange := by
  unfold Obligations.ToneEventsExactlyOnChange
  intro s t hs halt hlast e
  have ha := agentStep_of_step e
  obtain ⟨hfollows, hevents⟩ : ToneMoves s t :=
    agentStep_toneMoves (s := { s with schedule := s.schedule.tail }) ha hs
  obtain ⟨halt', hlast'⟩ := alternates_append_change (new := t.tone) halt hlast
  exact ⟨hfollows, hevents, hevents ▸ halt', hevents ▸ hlast',
    agentStep_tone_ne (s := { s with schedule := s.schedule.tail }) ha⟩

end Sys2Proof.Machine
end

section
/-! PROOF. DIAG_ENABLED, the diagnostic log, the events surfaced so far and the schedule have no influence on what executes
(R226, R240): every operation commutes with a change of them that keeps step with `diag` and `emit`. -/

namespace Sys2Proof.Machine

/-! ## Changes that execution cannot tell -/

/-- A change of DIAG_ENABLED, of the log, of the surfaced events and of the schedule that commutes with what execution does to
them: with a diagnostic, which the changed flag gates as the flag gates it, and with any other event. -/
structure Recast where
  flag : Bool → Bool
  log : List DiagEntry → List DiagEntry
  ports : List PortEvent → List PortEvent
  queue : List AgentStep → List AgentStep
  log_diag : ∀ (on : Bool) es d, log (if on then es ++ [d] else es) = if flag on then log es ++ [d] else log es
  ports_diag : ∀ (on : Bool) es d,
    ports (if on then es ++ [.diag d] else es) = if flag on then ports es ++ [.diag d] else ports es
  ports_event : ∀ es e, (∀ d, e ≠ .diag d) → ports (es ++ [e]) = ports es ++ [e]

def State.recast (s : State) (c : Recast) : State :=
  { s with
    cfg := { s.cfg with diagEnabled := c.flag s.cfg.diagEnabled }
    diagLog := c.log s.diagLog
    outputs := c.ports s.outputs
    schedule := c.queue s.schedule }

/-- The answer, its next state recast; a stop is the same. -/
def recastAnswer (c : Recast) : Answer → Answer
  | .next t => .next (t.recast c)
  | .fault r => .fault r
  | .refused r => .refused r

/-! ## The operations -/

section
variable (s : State) (c : Recast)

theorem Recast.ports_tone (es : List PortEvent) (on : Bool) : c.ports (es ++ [.tone on]) = c.ports es ++ [.tone on] :=
  c.ports_event es _ nofun

theorem Recast.ports_error (es : List PortEvent) (record : ErrorRecord) :
    c.ports (es ++ [.error record]) = c.ports es ++ [.error record] :=
  c.ports_event es _ nofun

theorem Recast.ports_fbClear (es : List PortEvent) : c.ports (es ++ [.fbClear]) = c.ports es ++ [.fbClear] :=
  c.ports_event es _ nofun

theorem Recast.ports_fbDrawRow (es : List PortEvent) (x y : Nat) (b : Byte) (collided : Bool) :
    c.ports (es ++ [.fbDrawRow x y b collided]) = c.ports es ++ [.fbDrawRow x y b collided] :=
  c.ports_event es _ nofun

theorem State.diag_recast (code : DiagCode) (info : Nat) :
    (s.recast c).diag code info = (s.diag code info).recast c := by
  simp only [State.diag, State.recast, c.log_diag, c.ports_diag]
  rfl

theorem State.raiseFatal_recast (code : FatalCode) (word : Option Word) :
    (s.recast c).raiseFatal code word = (s.raiseFatal code word).recast c := by
  simp only [State.raiseFatal, State.recast, c.ports_error]

theorem State.setSound_recast (b : Byte) : (s.recast c).setSound b = (s.setSound b).recast c := by
  simp only [State.setSound, State.recast, apply_ite c.ports, c.ports_tone]
  rfl

theorem State.soundTick_recast : (s.recast c).soundTick = s.soundTick.recast c := by
  simp only [State.soundTick, State.recast, apply_ite c.ports, c.ports_tone]
  rfl

theorem State.fbClear_recast : (s.recast c).fbClear = s.fbClear.recast c := by
  simp only [State.fbClear, State.recast, c.ports_fbClear]

theorem State.fbDrawRow_recast (x y : Nat) (b : Byte) :
    (s.recast c).fbDrawRow x y b = ((s.fbDrawRow x y b).1, (s.fbDrawRow x y b).2.recast c) := by
  simp only [State.fbDrawRow, State.recast, c.ports_fbDrawRow]

theorem State.fetchWord_recast : (s.recast c).fetchWord = s.fetchWord := rfl

theorem State.putByte_recast (a : Nat) (v : Byte) : (s.recast c).putByte a v = (s.putByte a v).recast c := rfl

theorem State.memRead_recast (a : Nat) :
    (s.recast c).memRead a = ((s.memRead a).1, (s.memRead a).2.recast c) := by
  unfold State.memRead
  split
  · rfl
  · rw [State.diag_recast]
    rfl

theorem State.memWrite_recast (a : Nat) (v : Byte) : (s.recast c).memWrite a v = (s.memWrite a v).recast c := by
  unfold State.memWrite
  split
  · rfl
  · exact s.diag_recast c _ _

theorem storeBytes_recast (bs : List Byte) (k : Nat) :
    storeBytes k bs (s.recast c) = (storeBytes k bs s).recast c := by
  induction bs generalizing k s with
  | nil => rfl
  | cons b bs ih =>
    rw [storeBytes, State.memWrite_recast, ih]
    rfl

theorem putBytes_recast (bs : List Byte) (a : Nat) : putBytes a bs (s.recast c) = (putBytes a bs s).recast c := by
  induction bs generalizing a s with
  | nil => rfl
  | cons b bs ih => rw [putBytes, State.putByte_recast, ih, putBytes]

theorem loadRegs_recast (rs : List Reg) : loadRegs rs (s.recast c) = (loadRegs rs s).recast c := by
  induction rs generalizing s with
  | nil => rfl
  | cons r rs ih =>
    have hload : (s.recast c).loadReg r = (s.loadReg r).recast c := by
      rw [State.loadReg, show (s.recast c).dataAddr r.val = s.dataAddr r.val from rfl, State.memRead_recast]
      rfl
    rw [loadRegs, hload, ih, loadRegs]

theorem State.keyPressed_recast (b : Byte) :
    (s.recast c).keyPressed b = ((s.keyPressed b).1, (s.keyPressed b).2.recast c) := by
  unfold State.keyPressed
  split
  · rfl
  · rw [State.diag_recast]

theorem drawSprite_recast (x0 y0 n row : Nat) :
    drawSprite x0 y0 n row (s.recast c) = ((drawSprite x0 y0 n row s).1, (drawSprite x0 y0 n row s).2.recast c) := by
  induction n generalizing row s with
  | zero => rfl
  | succ n ih =>
    have hrow : (s.recast c).drawSpriteRow x0 y0 row =
        ((s.drawSpriteRow x0 y0 row).1, (s.drawSpriteRow x0 y0 row).2.recast c) := by
      rw [State.drawSpriteRow, show (s.recast c).dataAddr row = s.dataAddr row from rfl, State.memRead_recast]
      exact State.fbDrawRow_recast _ c _ _ _
    rw [drawSprite, hrow, ih]
    rfl

theorem State.shiftWithFlag_recast (x : Reg) (f g : Byte → Byte) :
    (s.recast c).shiftWithFlag x f g = (s.shiftWithFlag x f g).recast c := by
  unfold State.shiftWithFlag
  rw [show (s.recast c).cfg.shiftFlagOrder = s.cfg.shiftFlagOrder from rfl]
  cases s.cfg.shiftFlagOrder <;> rfl

/-! ## The instructions -/

theorem complete_recast {s u : State} {c : Recast} (h : u = s.recast c) : complete u = recastAnswer c (complete s) := by
  rw [h]
  rfl

theorem push_jump_recast (w target : Word) :
    ((s.recast c).push w fun u => complete (u.jumpTo target)) =
      recastAnswer c (s.push w fun u => complete (u.jumpTo target)) := by
  by_cases h : s.sp.val < stackDepth
  · rw [State.push_of_room h, State.push_of_room (s := s.recast c) h]
    rfl
  · have hfull : s.sp.val = stackDepth := Nat.le_antisymm (Nat.le_of_lt_succ s.sp.isLt) (Nat.le_of_not_lt h)
    rw [State.push_of_full hfull, State.push_of_full (s := s.recast c) hfull]
    exact congrArg _ (s.raiseFatal_recast c _ _)

theorem pop_jump_recast :
    ((s.recast c).pop fun target u => complete (u.jumpTo target)) =
      recastAnswer c (s.pop fun target u => complete (u.jumpTo target)) := by
  by_cases h : s.sp.val = 0
  · rw [State.pop_of_empty h, State.pop_of_empty (s := s.recast c) h]
    exact congrArg _ (s.raiseFatal_recast c _ _)
  · rw [State.pop_of_pos (Nat.pos_of_ne_zero h), State.pop_of_pos (s := s.recast c) (Nat.pos_of_ne_zero h)]
    rfl

theorem execBNNN_recast (nnn : BitVec 12) : execBNNN nnn (s.recast c) = recastAnswer c (execBNNN nnn s) := by
  unfold execBNNN
  rw [show (s.recast c).cfg.bnnnMode = s.cfg.bnnnMode from rfl]
  cases s.cfg.bnnnMode <;> rfl

theorem execFX0A_recast (x : Reg) : execFX0A x (s.recast c) = recastAnswer c (execFX0A x s) := by
  unfold execFX0A
  rw [show (s.recast c).lowestKey = s.lowestKey from rfl]
  cases s.lowestKey <;> rfl

theorem execDXYN_recast (x y : Reg) (n : BitVec 4) :
    execDXYN x y n (s.recast c) = recastAnswer c (execDXYN x y n s) := by
  unfold execDXYN
  rw [show (s.recast c).reg = s.reg from rfl, drawSprite_recast]
  rfl

/-- No instruction can tell a recast state (R226). -/
theorem exec_recast (i : Instr) : exec i (s.recast c) = recastAnswer c (exec i s) := by
  cases i with
  | op00E0 => exact complete_recast (s.fbClear_recast c)
  | op00EE => exact pop_jump_recast s c
  | op2NNN nnn => exact push_jump_recast s c _ _
  | op8XY6 x | op8XYE x => exact complete_recast (s.shiftWithFlag_recast c x _ _)
  | opBNNN nnn => exact execBNNN_recast s c nnn
  | opDXYN x y n => exact execDXYN_recast s c x y n
  | opEX9E x | opEXA1 x =>
    refine complete_recast ?_
    rw [show (s.recast c).reg = s.reg from rfl, State.keyPressed_recast]
    rfl
  | opFX0A x => exact execFX0A_recast s c x
  | opFX18 x => exact complete_recast (s.setSound_recast c _)
  | opFX33 x | opFX55 x => exact complete_recast (storeBytes_recast s c _ _)
  | opFX65 x => exact complete_recast (loadRegs_recast s c _)
  | _ => rfl

/-! ## The steps -/

theorem decodeAndExecute_recast (w : Word) :
    decodeAndExecute w (s.recast c) = recastAnswer c (decodeAndExecute w s) := by
  unfold decodeAndExecute
  rw [show (s.recast c).cfg.strictDecode = s.cfg.strictDecode from rfl]
  cases decode s.cfg.strictDecode w with
  | instr i => exact exec_recast { s with pcUpdated := false } c i
  | reject e => exact complete_recast (State.diag_recast { s with pcUpdated := false } c _ _)

theorem cycle_recast : cycle (s.recast c) = recastAnswer c (cycle s) := by
  rw [cycle, cycle, apply_ite (recastAnswer c), apply_ite (recastAnswer c), State.fetchWord_recast,
    decodeAndExecute_recast, State.raiseFatal_recast]
  rfl

theorem cpuStep_recast : cpuStep (s.recast c) = recastAnswer c (cpuStep s) := by
  by_cases hr : s.run = .running
  · rw [cpuStep_of_running hr, cpuStep_of_running (s := s.recast c) hr, cycle_recast]
  · rw [cpuStep_of_stopped hr, cpuStep_of_stopped (s := s.recast c) hr]
    rfl

/-- A reset empties the log, so it takes a change that keeps the empty log empty (R261). -/
theorem State.resetWith_recast (hlog : c.log [] = []) (bytes : List Byte) :
    (s.recast c).resetWith bytes = (s.resetWith bytes).recast c := by
  refine Eq.trans ?_ (putBytes_recast _ c bytes progBase)
  simp only [State.resetWith, State.recast, State.initial, apply_ite c.ports, c.ports_tone, hlog]
  rfl

theorem State.load_recast (hlog : c.log [] = []) (rom : RomSource) :
    (s.recast c).load rom = (s.load rom).recast c := by
  unfold State.load
  rw [show checkRom (s.recast c).cfg rom = checkRom s.cfg rom by cases rom <;> rfl]
  cases checkRom s.cfg rom with
  | error e =>
    simp only [State.emit, State.tearDown, State.recast, c.ports_error]
  | ok bytes => exact s.resetWith_recast c hlog bytes

theorem agentStep_recast (hlog : c.log [] = []) (a : AgentStep) :
    agentStep (s.recast c) a = recastAnswer c (agentStep s a) := by
  cases a with
  | cpu => exact cpuStep_recast s c
  | delayTick => rfl
  | soundTick => exact congrArg _ (s.soundTick_recast c)
  | host act =>
    cases act with
    | load rom => exact congrArg _ (s.load_recast c hlog rom)
    | setKey _ _ | shutdown | teardown => rfl

theorem State.blockStep_recast (hlog : c.log [] = []) (a : AgentStep) :
    (s.recast c).blockStep a = recastAnswer c (s.blockStep a) := by
  rw [State.blockStep, State.blockStep, apply_ite (recastAnswer c), agentStep_recast s c hlog]
  rfl

end

end Sys2Proof.Machine
end

section
/-! PROOF. Diagnostics change logging only (R226), read off from the commuting of every operation with a recast state. -/

namespace Sys2Proof.Machine

/-! ## Leaving the logging out -/

/-- The diag port's events go, and every other event stays. -/
theorem notDiagEvents_concat {es : List PortEvent} {e : PortEvent} (h : ∀ d, e ≠ .diag d) :
    notDiagEvents (es ++ [e]) = notDiagEvents es ++ [e] := by
  cases e with
  | diag d => exact absurd rfl (h d)
  | tone _ | fbClear | fbDrawRow _ _ _ _ | error _ => exact List.filter_append es _

theorem notDiagEvents_concat_diag (es : List PortEvent) (d : DiagEntry) :
    notDiagEvents (es ++ [.diag d]) = notDiagEvents es :=
  (List.filter_append es _).trans (List.append_nil _)

theorem diag_not_mem_notDiagEvents (es : List PortEvent) (d : DiagEntry) : .diag d ∉ notDiagEvents es := by
  simp [notDiagEvents]

/-- Diagnostics off, the log fixed, and the diag port's events left out. -/
def Recast.noLogging (log : List DiagEntry) : Recast where
  flag := fun _ => false
  log := fun _ => log
  ports := notDiagEvents
  queue := id
  log_diag := fun _ _ _ => rfl
  ports_diag := fun on es d => by
    cases on with
    | false => rfl
    | true => exact notDiagEvents_concat_diag es d
  ports_event := fun _ _ h => notDiagEvents_concat h

/-- More events surfaced before. -/
def Recast.after (before : List PortEvent) : Recast where
  flag := id
  log := id
  ports := fun es => before ++ es
  queue := id
  log_diag := fun _ _ _ => rfl
  ports_diag := fun on _ _ => by
    cases on with
    | false => rfl
    | true => exact (List.append_assoc _ _ _).symm
  ports_event := fun _ _ _ => (List.append_assoc _ _ _).symm

theorem State.butLogging_eq_recast (s : State) : s.butLogging = s.recast (.noLogging []) := rfl

/-- With diagnostics off, the log as it is and nothing surfaced, there is no logging to leave out. -/
theorem State.recast_noLogging_self (s : State) (hd : s.cfg.diagEnabled = false) :
    State.recast { s with outputs := [] } (.noLogging s.diagLog) = { s with outputs := [] } := by
  simp only [State.recast, Recast.noLogging, ← hd]
  rfl

theorem State.recast_after_self (s : State) : State.recast { s with outputs := [] } (.after s.outputs) = s := by
  simp only [State.recast, Recast.after, List.append_nil]
  rfl

/-! ## Two runs that differ in logging -/

theorem agreeButLogging_of_recast {a b : Answer}
    (h : recastAnswer (.noLogging []) a = recastAnswer (.noLogging []) b) : agreeButLogging a b := by
  cases a with
  | next t =>
    cases b with
    | next u => exact Host.Outcome.next.inj h
    | fault _ | refused _ => cases h
  | fault r =>
    cases b with
    | fault q => exact Host.Outcome.fault.inj h
    | next _ | refused _ => cases h
  | refused r =>
    cases b with
    | refused q => exact Host.Outcome.refused.inj h
    | next _ | fault _ => cases h

theorem step_recast_noLogging (s : State) :
    step (s.recast (.noLogging [])) = recastAnswer (.noLogging []) (step s) :=
  State.blockStep_recast { s with schedule := s.schedule.tail } (.noLogging []) rfl s.nextAgent

/-- An operation that cannot tell a recast state answers alike from two states that agree but for logging. -/
theorem agreeButLogging_of_commutes {f : State → Answer} {s t : State}
    (hf : ∀ s, f (s.recast (.noLogging [])) = recastAnswer (.noLogging []) (f s)) (h : s.butLogging = t.butLogging) :
    agreeButLogging (f s) (f t) := by
  rw [State.butLogging_eq_recast, State.butLogging_eq_recast] at h
  exact agreeButLogging_of_recast (by rw [← hf, ← hf, h])

/-! ## A quiet run -/

theorem eq_next_of_recastAnswer {c : Recast} {a : Answer} {t : State} (h : recastAnswer c a = .next t) :
    ∃ u, a = .next u ∧ t = u.recast c := by
  cases a with
  | next u => exact ⟨u, rfl, (Host.Outcome.next.inj h).symm⟩
  | fault _ | refused _ => cases h

/-- With diagnostics off, an operation that cannot tell a recast state records nothing. Run from the same state with nothing
surfaced yet, it answers a state that has no logging to leave out; and what had been surfaced comes through unchanged. -/
theorem quiet_of_commutes {f : State → Answer} {s t : State} (hf : ∀ s c, f (s.recast c) = recastAnswer c (f s))
    (hd : s.cfg.diagEnabled = false) (e : f s = .next t) :
    t.diagLog = s.diagLog ∧ ∀ d, .diag d ∈ t.outputs → .diag d ∈ s.outputs := by
  rw [← s.recast_after_self, hf] at e
  obtain ⟨u, hu, rfl⟩ := eq_next_of_recastAnswer e
  have hquiet : u.recast (.noLogging s.diagLog) = u := by
    have h := hf { s with outputs := [] } (.noLogging s.diagLog)
    rw [State.recast_noLogging_self s hd, hu] at h
    exact (Host.Outcome.next.inj h).symm
  have hlog := congrArg State.diagLog hquiet
  have hports := congrArg State.outputs hquiet
  refine ⟨hlog.symm, fun d hmem => ?_⟩
  rcases List.mem_append.mp hmem with hbefore | hnew
  · exact hbefore
  · exact absurd (hports.symm ▸ hnew) (diag_not_mem_notDiagEvents _ d)

/-- Settles O59: no instruction and no step can tell a recast state. -/
theorem diagnosticsChangeLoggingOnly : Obligations.DiagnosticsChangeLoggingOnly := by
  unfold Obligations.DiagnosticsChangeLoggingOnly
  refine ⟨fun s t h => ⟨fun i => ?_, agreeButLogging_of_commutes step_recast_noLogging h⟩, fun s t hd e => ?_⟩
  · exact agreeButLogging_of_commutes (fun s => exec_recast s _ i) h
  · rcases e with ⟨i, e⟩ | e
    · exact quiet_of_commutes (fun s c => exec_recast s c i) hd e
    · exact quiet_of_commutes cpuStep_recast hd e

end Sys2Proof.Machine
end

section
/-! PROOF. The machine's runs and the agents' interleavings, and what weak fairness gives an infinite execution (R240, R232,
D19). -/

namespace Sys2Proof.Machine

/-! ## The schedule has no influence on an agent's step -/

/-- Another schedule. -/
def Recast.scheduled (schedule : List AgentStep) : Recast where
  flag := id
  log := id
  ports := id
  queue := fun _ => schedule
  log_diag := fun _ _ _ => rfl
  ports_diag := fun _ _ _ => rfl
  ports_event := fun _ _ _ => rfl

theorem State.blockStep_scheduled (s : State) (q : List AgentStep) (a : AgentStep) :
    State.blockStep { s with schedule := q } a = recastAnswer (.scheduled q) (s.blockStep a) :=
  s.blockStep_recast (.scheduled q) rfl a

/-- The answer's next state handed on to what follows; a stop is the answer. -/
def andThen {σ φ ρ : Type} (a : Host.Outcome σ φ ρ) (k : σ → Host.Outcome σ φ ρ) : Host.Outcome σ φ ρ :=
  match a with
  | .next t => k t
  | .fault r => .fault r
  | .refused r => .refused r

theorem run_succ (M : Host.Core) (n : Nat) (s : M.State) : M.run (n + 1) s = andThen (M.step s) (M.run n) := by
  rw [Host.Core.run]
  cases M.step s <;> rfl

theorem core_run_succ (n : Nat) (s : State) :
    Sys2Proof.core.run (n + 1) s = andThen (step s) (Sys2Proof.core.run n) :=
  run_succ Sys2Proof.core n s

theorem runAgents_cons (a : AgentStep) (as : List AgentStep) (s : State) :
    runAgents (a :: as) s = andThen (s.blockStep a) (runAgents as) := by
  rw [runAgents]
  cases s.blockStep a <;> rfl

/-- A run of the machine takes its schedule's steps one after another (R240). -/
theorem run_schedule (as rest : List AgentStep) (s : State) :
    Sys2Proof.core.run as.length { s with schedule := as ++ rest } = runAgents as { s with schedule := rest } := by
  induction as generalizing s with
  | nil => rfl
  | cons a as ih =>
    rw [List.length_cons, List.cons_append, core_run_succ, step_schedule_cons, runAgents_cons,
      s.blockStep_scheduled (as ++ rest), s.blockStep_scheduled rest]
    cases s.blockStep a with
    | next t => exact ih t
    | fault _ | refused _ => rfl

/-- An execution's steps from its k-th state on, taken one after another, lead along its states. -/
theorem IsExecution.runAgents_eq {u : Nat → State} {a : Nat → AgentStep} (h : IsExecution u a) (n k : Nat) :
    runAgents ((List.range' k n).map a) (u k) = .next (u (k + n)) := by
  induction n generalizing k with
  | zero => rfl
  | succ n ih =>
    rw [List.range'_succ, List.map_cons, runAgents_cons, h k]
    exact (ih (k + 1)).trans (by rw [Nat.add_right_comm, Nat.add_assoc])

/-- Up to each point an infinite execution is a run of the machine whose schedule lists its steps (R240). -/
theorem IsExecution.run_eq {u : Nat → State} {a : Nat → AgentStep} (h : IsExecution u a) (n : Nat) :
    Sys2Proof.core.run n { u 0 with schedule := (List.range n).map a ++ (u 0).schedule } = .next (u n) := by
  have hrun := run_schedule ((List.range n).map a) (u 0).schedule (u 0)
  have hagents := h.runAgents_eq n 0
  rw [← List.range_eq_range', Nat.zero_add] at hagents
  rw [List.length_map, List.length_range] at hrun
  exact hrun.trans hagents

/-! ## ST falls to 0 (R232) -/

/-- A counter that never rises from n on, and that falls at some later point as long as it is not 0, becomes 0 and stays
0. -/
theorem eventually_zero_of_falling {f : Nat → Nat} {n : Nat} (hle : ∀ m, n ≤ m → f (m + 1) ≤ f m)
    (hfall : ∀ k, n ≤ k → (∀ m, k ≤ m → f m ≠ 0) → ∃ m, k ≤ m ∧ f (m + 1) < f m) :
    ∃ k, n ≤ k ∧ ∀ m, k ≤ m → f m = 0 := by
  have hanti : Antitone fun j => f (n + j) := antitone_nat_of_succ_le fun j => hle (n + j) (Nat.le_add_right n j)
  obtain ⟨j, hj⟩ := WellFoundedLT.antitone_chain_condition hanti
  have hconst : ∀ m, n + j ≤ m → f m = f (n + j) := fun m hm => by
    have h := hj (m - n) (by omega)
    rw [Nat.add_sub_cancel' (by omega)] at h
    exact h.symm
  by_cases h0 : f (n + j) = 0
  · exact ⟨n + j, Nat.le_add_right n j, fun m hm => (hconst m hm).trans h0⟩
  · obtain ⟨m, hm, hlt⟩ := hfall (n + j) (Nat.le_add_right n j) fun m hm => hconst m hm ▸ h0
    have h1 := hconst m hm
    have h2 := hconst (m + 1) (by omega)
    omega

theorem State.soundTick_st_le (s : State) : s.soundTick.st.toNat ≤ s.st.toNat := by
  by_cases h : s.st = 0
  · rw [State.soundTick_st, if_pos h]
    exact Nat.zero_le _
  · exact Nat.le_of_lt (Nat.lt_of_succ_le (State.soundTick_st_toNat h).le)

/-- ST rises in no step but an FX18 of the CPU. -/
theorem agentStep_st_le {s t : State} {a : AgentStep} (e : agentStep s a = .next t)
    (h : ∀ x, a = .cpu → ¬ s.Runs (.opFX18 x)) : t.st.toNat ≤ s.st.toNat := by
  rcases agentStep_sound_cases e with ⟨hst, -, -⟩ | ⟨ha, x, hx, -⟩ | ⟨-, rfl⟩ | ⟨_, bytes, -, rfl⟩
  · rw [hst]
  · exact absurd hx (h x ha)
  · exact s.soundTick_st_le
  · rw [State.resetWith_st]
    exact Nat.zero_le _

theorem IsExecution.agentStep_eq {u : Nat → State} {a : Nat → AgentStep} (h : IsExecution u a) {m : Nat}
    (hl : (u m).live = true) : agentStep (u m) (a m) = .next (u (m + 1)) :=
  (State.blockStep_of_live hl (a m)).symm.trans (h m)

/-- In a weakly fair execution without FX18, ST becomes 0 and stays 0: as long as it is not 0, the sound timer ticks again. -/
theorem IsExecution.st_eventually_zero {u : Nat → State} {a : Nat → AgentStep} (h : IsExecution u a)
    (hfair : WeaklyFair u a) {n : Nat} (hl : ∀ m, n ≤ m → (u m).live = true)
    (hx : ∀ m x, n ≤ m → a m = .cpu → ¬ (u m).Runs (.opFX18 x)) : ∃ k, n ≤ k ∧ ∀ m, k ≤ m → (u m).st = 0 := by
  have hzero : ∃ k, n ≤ k ∧ ∀ m, k ≤ m → (u m).st.toNat = 0 := by
    refine eventually_zero_of_falling (fun m hm => agentStep_st_le (h.agentStep_eq (hl m hm)) fun x => hx m x hm) ?_
    intro k hk hne
    have hne' : ∀ m, k ≤ m → (u m).st ≠ 0 := fun m hm h0 => hne m hm (by rw [h0]; rfl)
    obtain ⟨m, hm, ha⟩ := hfair.soundTick (fun m hm => ⟨hl m (hk.trans hm), hne' m hm⟩) k
    have hstep := h.agentStep_eq (hl m (hk.trans hm))
    rw [ha] at hstep
    refine ⟨m, hm, ?_⟩
    rw [← Host.Outcome.next.inj hstep]
    exact Nat.lt_of_succ_le (State.soundTick_st_toNat (hne' m hm)).le
  exact hzero.imp fun k ⟨hk, h0⟩ => ⟨hk, fun m hm => BitVec.eq_of_toNat_eq (h0 m hm)⟩

/-- In a weakly fair execution a CPU that stays RUNNING and does not hold steps again (R98, R240). -/
theorem WeaklyFair.cpu {u : Nat → State} {a : Nat → AgentStep} (h : WeaklyFair u a) {n : Nat}
    (hl : ∀ m, n ≤ m → (u m).live = true) (hr : ∀ m, n ≤ m → (u m).run = .running ∧ ¬ (u m).Holds) (k : Nat) :
    ∃ m, k ≤ m ∧ a m = .cpu := by
  obtain ⟨m, hm, ha⟩ := h .cpu (by decide) n (fun m hm => ⟨hl m hm, hr m hm⟩) k
  exact ⟨m, hm, AgentStep.agent_eq_cpu.mp ha⟩

/-- Settles O60: runs and interleavings by induction over the steps; ST's fall from the fairness of the sound timer. -/
theorem everyInterleavingIsARun : Obligations.EveryInterleavingIsARun :=
  ⟨run_schedule, fun _ _ h => ⟨h.run_eq, fun hfair _ hl => ⟨h.st_eventually_zero hfair hl, hfair.cpu hl⟩⟩⟩

end Sys2Proof.Machine
end

section
/-! PROOF. The reset with an accepted and with a refused ROM, and teardown (R261, R262, R265, R224, R39). -/

namespace Sys2Proof.Machine

/-! ## ROM acceptance (R262) -/

theorem checkRom_of_accepted {c : Config} {bytes : List Byte} (hlen : bytes.length ≤ romMax)
    (heven : c.romIntegrityCheck = true → bytes.length % 2 = 0) : checkRom c (.image bytes) = .ok bytes := by
  have hodd : ¬ (c.romIntegrityCheck && decide (bytes.length % 2 = 1)) = true := by
    simp only [Bool.and_eq_true, decide_eq_true_eq]
    exact fun ⟨hc, h1⟩ => by have h0 := heven hc; omega
  rw [checkRom, if_neg (Nat.not_lt.mpr hlen), if_neg hodd]

theorem checkRom_of_too_large {c : Config} {bytes : List Byte} (h : romMax < bytes.length) :
    checkRom c (.image bytes) = .error .romTooLarge := by
  rw [checkRom, if_pos h]

theorem checkRom_of_odd_length {c : Config} {bytes : List Byte} (hlen : bytes.length ≤ romMax)
    (hc : c.romIntegrityCheck = true) (hodd : bytes.length % 2 = 1) :
    checkRom c (.image bytes) = .error .romOddLength := by
  rw [checkRom, if_neg (Nat.not_lt.mpr hlen), if_pos (by simp [hc, hodd])]

theorem State.load_of_accepted {s : State} {rom : RomSource} {bytes : List Byte} (h : checkRom s.cfg rom = .ok bytes) :
    s.load rom = s.resetWith bytes := by
  rw [State.load, h]

theorem State.load_of_refused {s : State} {rom : RomSource} {e : ConstructionError} (h : checkRom s.cfg rom = .error e) :
    s.load rom = (s.emit (.error (.construction e))).tearDown := by
  rw [State.load, h]

/-! ## Memory after a reset (R261, R56) -/

theorem putBytes_byteAt_of_ge (bs : List Byte) {a b : Nat} (h : a + bs.length ≤ b) (s : State) :
    (putBytes a bs s).byteAt b = s.byteAt b := by
  induction bs generalizing a s with
  | nil => rfl
  | cons v bs ih =>
    rw [List.length_cons] at h
    rw [putBytes, ih (by omega), State.byteAt_putByte_ne (by omega)]

/-- Below and behind the image a reset leaves the reset contents. -/
theorem State.resetWith_byteAt_outside (s : State) (rom : List Byte) {a : Nat}
    (h : a < progBase ∨ progBase + rom.length ≤ a) : (s.resetWith rom).byteAt a = memBackground s.cfg a := by
  rcases h with h | h
  · exact putBytes_byteAt_of_lt rom h _
  · exact putBytes_byteAt_of_ge rom h _

theorem State.resetWith_byteAt_font (s : State) (rom : List Byte) {k : Nat} (hk : k < 80) :
    (s.resetWith rom).byteAt (0x50 + k) = s.cfg.font.getD k 0 :=
  (s.resetWith_byteAt_outside rom (.inl (by simp only [progBase]; omega))).trans (memBackground_font s.cfg hk)

theorem State.resetWith_byteAt_image (s : State) {rom : List Byte} (h : rom.length ≤ romMax) {k : Nat}
    (hk : k < rom.length) : (s.resetWith rom).byteAt (0x200 + k) = rom.getD k 0 := by
  have hfit : progBase + rom.length ≤ memSize := by
    simp only [progBase, memSize, romMax] at *
    omega
  rw [List.getD_eq_getElem _ _ hk]
  exact putBytes_byteAt rom hfit ⟨List.Pairwise.nil, fun _ hx => absurd hx List.not_mem_nil⟩ k hk

theorem State.resetWith_byteAt_memInit (s : State) (rom : List Byte) {a : Nat}
    (h : a < 0x50 ∨ (0xA0 ≤ a ∧ a < 0x200) ∨ 0x200 + rom.length ≤ a) :
    (s.resetWith rom).byteAt a = (cellAt a s.cfg.memInit).getD 0 :=
  (s.resetWith_byteAt_outside rom (by simp only [progBase]; omega)).trans
    (memBackground_memInit s.cfg (by omega))

/-! ## The step of a load, and teardown -/

/-- The schedule comes through a reset as it is (log 1). -/
theorem State.resetWith_scheduled (s : State) (q : List AgentStep) (rom : List Byte) :
    State.resetWith { s with schedule := q } rom = { s.resetWith rom with schedule := q } :=
  s.resetWith_recast (.scheduled q) rfl rom

/-- An accepted ROM's step is the reset (R261). -/
theorem step_of_accepted_rom {s : State} {rom : RomSource} {bytes : List Byte} (ha : s.nextAgent = .host (.load rom))
    (h : checkRom s.cfg rom = .ok bytes) : step s = .next { s.resetWith bytes with schedule := s.schedule.tail } := by
  rw [step_of_load ha, State.load_of_accepted (s := { s with schedule := s.schedule.tail }) h, State.resetWith_scheduled]

/-- Settles O48: the accepted ROM's reset is the table of R39, field by field, and memory region by region. -/
theorem resetWithRom : Obligations.ResetWithRom := by
  unfold Obligations.ResetWithRom
  intro s rom ha hlen heven
  have hfont := fun k => s.resetWith_byteAt_font rom (k := k)
  have himage := fun k => s.resetWith_byteAt_image hlen (k := k)
  have hinit := fun a => s.resetWith_byteAt_memInit rom (a := a)
  refine ⟨_, step_of_accepted_rom ha (checkRom_of_accepted hlen heven), ?_⟩
  rw [State.resetWith_eq] at hfont himage hinit ⊢
  exact ⟨initial_reg s.cfg, rfl, rfl, rfl, initial_stackAt s.cfg, rfl, rfl, rfl, initial_keyDown s.cfg,
    pixelOf_clear _ _, rfl, rfl, rfl, rfl, rfl, rfl, rfl, hfont, himage, hinit⟩

/-- A refused ROM's step surfaces the error and leaves no VM (R224). -/
theorem step_of_refused_rom {s : State} {rom : RomSource} {e : ConstructionError} (ha : s.nextAgent = .host (.load rom))
    (h : checkRom s.cfg rom = .error e) :
    step s = .next { s with
      live := false, outputs := s.outputs ++ [.error (.construction e)], schedule := s.schedule.tail } :=
  (step_of_load ha).trans (congrArg _ (State.load_of_refused (s := { s with schedule := s.schedule.tail }) h))

/-- Settles O49: each of the three causes makes the acceptance check answer its own error. -/
theorem refusedRomLeavesNoVm : Obligations.RefusedRomLeavesNoVm := by
  unfold Obligations.RefusedRomLeavesNoVm
  rintro s rom e ha (⟨rfl, rfl⟩ | ⟨bytes, rfl, ⟨hlarge, rfl⟩ | ⟨hlen, hc, hodd, rfl⟩⟩)
  · exact step_of_refused_rom ha rfl
  · exact step_of_refused_rom ha (checkRom_of_too_large hlarge)
  · exact step_of_refused_rom ha (checkRom_of_odd_length hlen hc hodd)

/-- Settles O50: the teardown is the host's own step, and the block's check stops every step but a construction. -/
theorem teardownStopsEveryAgent : Obligations.TeardownStopsEveryAgent := by
  unfold Obligations.TeardownStopsEveryAgent
  refine ⟨fun s hl ha => step_of_agent hl ha, fun s hl hload => ?_⟩
  rcases step_cases s with ⟨-, hlive | ⟨rom, hrom⟩⟩ | ⟨hfault, -, -⟩
  · exact absurd (hl.symm.trans hlive) Bool.false_ne_true
  · exact absurd hrom (hload rom)
  · exact hfault

end Sys2Proof.Machine
end

section
/-! PROOF. The delay timer: DT rises by FX15 alone, and falls to 0 in every weakly fair execution without it (R268, R271,
R231, R240). -/

namespace Sys2Proof.Machine

/-! ## What a step can do to DT -/

/-- No instruction but FX15 writes DT (R28, R203). -/
theorem exec_dt {i : Instr} {s t : State} (e : exec i s = .next t) (hi : ∀ x, i ≠ .opFX15 x) : t.dt = s.dt := by
  have hw : (written s i).delay = false := by
    cases i with
    | opFX15 x => exact absurd rfl (hi x)
    | _ => rfl
  exact (exec_frame e).dt hw

theorem cpuStep_dt {s t : State} (e : cpuStep s = .next t) (h : ∀ x, ¬ s.Runs (.opFX15 x)) : t.dt = s.dt := by
  by_cases hr : s.run = .running
  · rw [cpuStep_of_running hr] at e
    rcases cycle_cases s with ⟨-, hc⟩ | ⟨-, -, hc⟩ | ⟨hrom, hmem, ⟨i, hd, hc⟩ | ⟨_, -, hc⟩⟩ <;> rw [hc] at e
    · cases e
      rfl
    · cases e
      rfl
    · refine exec_dt (s := { s with pcUpdated := false }) e fun x hx => h x ⟨hr, hrom, hmem, ?_⟩
      rw [hd, hx]
    · cases e
      rfl
  · cases (cpuStep_of_stopped hr).symm.trans e
    rfl

theorem State.delayTick_dt_le (s : State) : s.delayTick.dt.toNat ≤ s.dt.toNat := by
  by_cases h : s.dt = 0
  · rw [State.delayTick_dt, if_pos h]
    exact Nat.zero_le _
  · exact Nat.le_of_lt (Nat.lt_of_succ_le (State.delayTick_dt_toNat h).le)

/-- A load clears DT, or leaves it where the ROM is refused (R261, R262). -/
theorem State.load_dt_le (s : State) (rom : RomSource) : (s.load rom).dt.toNat ≤ s.dt.toNat := by
  rcases s.load_cases rom with ⟨bytes, -, -, h⟩ | ⟨_, -, h⟩ <;> rw [h]
  rw [State.resetWith_eq]
  exact Nat.zero_le _

/-- DT rises in no step but an FX15 of the CPU (R268). -/
theorem agentStep_dt_le {s t : State} {a : AgentStep} (e : agentStep s a = .next t)
    (h : ∀ x, a = .cpu → ¬ s.Runs (.opFX15 x)) : t.dt.toNat ≤ s.dt.toNat := by
  cases a with
  | cpu => rw [cpuStep_dt e fun x => h x rfl]
  | delayTick => cases e; exact s.delayTick_dt_le
  | soundTick => cases e; exact Nat.le_refl _
  | host act =>
    cases e
    cases act with
    | load rom => exact s.load_dt_le rom
    | setKey _ _ | shutdown | teardown => exact Nat.le_refl _

/-! ## DT along a weakly fair execution -/

/-- In a weakly fair execution whose DT never rises from n on, DT becomes 0 and stays 0: as long as it is not 0, the delay
timer ticks again (R271). -/
theorem IsExecution.dt_eventually_zero {u : Nat → State} {a : Nat → AgentStep} (h : IsExecution u a)
    (hfair : WeaklyFair u a) {n : Nat} (hl : ∀ m, n ≤ m → (u m).live = true)
    (hle : ∀ m, n ≤ m → (u (m + 1)).dt.toNat ≤ (u m).dt.toNat) : ∃ k, n ≤ k ∧ ∀ m, k ≤ m → (u m).dt = 0 := by
  have hzero : ∃ k, n ≤ k ∧ ∀ m, k ≤ m → (u m).dt.toNat = 0 := by
    refine eventually_zero_of_falling hle fun k hk hne => ?_
    have hne' : ∀ m, k ≤ m → (u m).dt ≠ 0 := fun m hm h0 => hne m hm (by rw [h0]; rfl)
    obtain ⟨m, hm, ha⟩ := hfair.delayTick (fun m hm => ⟨hl m (hk.trans hm), hne' m hm⟩) k
    have htick : u (m + 1) = (u m).delayTick := by
      have hstep := h.agentStep_eq (hl m (hk.trans hm))
      rw [ha] at hstep
      exact (Host.Outcome.next.inj hstep).symm
    exact ⟨m, hm, by rw [htick]; exact Nat.lt_of_succ_le (State.delayTick_dt_toNat (hne' m hm)).le⟩
  exact hzero.imp fun k ⟨hk, h0⟩ => ⟨hk, fun m hm => BitVec.eq_of_toNat_eq (h0 m hm)⟩

/-- Settles O57: every agent's step lowers or keeps DT, and along a fair execution the delay timer brings it to 0. -/
theorem delayTimerNeverRisesWithoutFX15 : Obligations.DelayTimerNeverRisesWithoutFX15 := by
  unfold Obligations.DelayTimerNeverRisesWithoutFX15
  refine ⟨fun s t e h => ?_, fun u a n hexec hfair hno => ?_⟩
  · exact agentStep_dt_le (s := { s with schedule := s.schedule.tail }) (agentStep_of_step e) h
  · have hle : ∀ m, n ≤ m → (u (m + 1)).dt.toNat ≤ (u m).dt.toNat := fun m hm =>
      agentStep_dt_le (hexec.agentStep_eq (hno m hm).1) (hno m hm).2
    refine ⟨fun m k hm hk => ?_, hexec.dt_eventually_zero hfair (fun m hm => (hno m hm).1) hle⟩
    induction k, hk using Nat.le_induction with
    | base => exact Nat.le_refl _
    | succ k hk ih => exact (hle k (hm.trans hk)).trans ih

end Sys2Proof.Machine
end
